-- ==== Sys2Proof/Word.lean ====
section
/-! DEFINITION. The words that cross the ports of the block (30_encoding.md R300, R303). -/

namespace Sys2Proof

/-- The 64-bit command word on `cmd_word` (R300, R303). -/
abbrev Word := BitVec 64

/-- The 32-bit operand field `arg` = `cmd_word[63:32]` (R303). -/
abbrev Arg := BitVec 32

/-- The 4-bit opcode field `op` = `cmd_word[3:0]` (R303). -/
abbrev Opcode := BitVec 4

/-- The 28-bit reserved field `rsv` = `cmd_word[31:4]` (R303). -/
abbrev Reserved := BitVec 28

/-- One byte of a bus wrapper that serialises words (20_memory.md R202). -/
abbrev Byte := BitVec 8

/-- A 4-bit error code, the value of `rsp_err` and of `last_err` (60_exceptions.md R1001). -/
abbrev Code := BitVec 4

/-- A 32-bit unsigned counter: `blk_remain`, `scount` (10_state.md R102). -/
abbrev Count := BitVec 32

end Sys2Proof
end

