-- ==== Sys2Proof/Syntax.lean ====
section
/-! DEFINITION. The twelve commands of FFA2-CMD version 1 (30_encoding.md R305), one constructor per row of
spec/opcode_table.json, with the operand as the integer that R307 and R309 assemble. -/

namespace Sys2Proof

/-- A decoded command. Unsigned operands are naturals, signed operands integers (30_encoding.md R307, R309); which
values the 32-bit operand field can encode is `Instr.wf` (WellFormed.lean). -/
inductive Instr where
  /-- NOP: do nothing (45_cmd_readback.md R802). -/
  | nop
  /-- SETN n: set the tap count and clear the coefficients (43_cmd_config.md R600). -/
  | setn (n : Nat)
  /-- LDC c: load the next coefficient tap (43_cmd_config.md R601). -/
  | ldc (c : Int)
  /-- SETL l: request a lane count (43_cmd_config.md R602). -/
  | setl (l : Nat)
  /-- START: derive the LaneSet and enter RUN (43_cmd_config.md R603). -/
  | start
  /-- STOP: discard the filter instance, back to CONFIG (43_cmd_config.md R604). -/
  | stop
  /-- INIT: re-initialise the filter state (44_cmd_stream.md R700). -/
  | init
  /-- BLOCK m: open a call of m samples (44_cmd_stream.md R701). -/
  | block (m : Nat)
  /-- PUSH x: process one input sample (44_cmd_stream.md R702). -/
  | push (x : Int)
  /-- READ sel: read a view (45_cmd_readback.md R800). -/
  | read (sel : Nat)
  /-- RDC k: read a coefficient register (45_cmd_readback.md R801). -/
  | rdc (k : Nat)
  /-- CLRERR: read and clear the sticky error code (45_cmd_readback.md R803). -/
  | clrerr
deriving DecidableEq, Repr

end Sys2Proof
end

