-- ==== Sys2Proof/WellFormed.lean ====
section
/-! DEFINITION. Which commands the command word can encode (30_encoding.md R307, R311, R312). -/

namespace Sys2Proof

/-- An unsigned operand the 32-bit field can hold: 0 .. 2^32 − 1 (30_encoding.md R307, R311). -/
def fitsUnsigned (v : Nat) : Bool := decide (v ≤ 4294967295)

/-- A signed operand the 32-bit field can hold: −2^31 .. 2^31 − 1 (30_encoding.md R307, R311). -/
def fitsSigned (v : Int) : Bool := decide (-2147483648 ≤ v ∧ v ≤ 2147483647)

/-- A well-formed command: its operand is one its kind can encode, which is the assembler's check of 30_encoding.md
R311. An operand outside the PARAMETER range (PUSH 300 with W_X = 8) is well-formed; the block raises ARG on it. -/
def Instr.wf : Instr → Bool
  | .nop => true
  | .setn n => fitsUnsigned n
  | .ldc c => fitsSigned c
  | .setl l => fitsUnsigned l
  | .start => true
  | .stop => true
  | .init => true
  | .block m => fitsUnsigned m
  | .push x => fitsSigned x
  | .read sel => fitsUnsigned sel
  | .rdc k => fitsUnsigned k
  | .clrerr => true

end Sys2Proof
end

