-- ==== Sys2Proof/Decode.lean ====
section
/-! DEFINITION. Decoding and encoding the command word (30_encoding.md R303 to R309, R312) and the byte order of a
bus wrapper (20_memory.md R202). -/

namespace Sys2Proof

/-- Why a word is no command (30_encoding.md R309, `Illegal`). The block answers each of them with the ILLEGAL error
response (60_exceptions.md R1001); `notEightBytes` is the wrapper's, for bytes that make no command word. -/
inductive Reject where
  /-- `rsv ≠ 0` (R304). -/
  | reservedBits
  /-- opcode 0xC, 0xD, 0xE or 0xF (R306). -/
  | reservedOpcode
  /-- `arg ≠ 0` on NOP, START, STOP, INIT or CLRERR (R308). -/
  | nonzeroArg
  /-- not exactly eight bytes (R303: "The length of a command is always 64 bits"). -/
  | notEightBytes
deriving DecidableEq, Repr

/-! ### Fields of the command word (R303) -/

/-- `op` = bits 3:0. -/
def opOf (w : Word) : Opcode := w.extractLsb' 0 4

/-- `rsv` = bits 31:4. -/
def rsvOf (w : Word) : Reserved := w.extractLsb' 4 28

/-- `arg` = bits 63:32. -/
def argOf (w : Word) : Arg := w.extractLsb' 32 32

/-! ### Operand assembly (R307) -/

/-- Unsigned operand: `zext_32(arg)`. -/
def unsignedOperand (a : Arg) : Nat := a.toNat

/-- Signed operand: `sext_32(arg)`, the two's complement reading (00_scope.md R12). -/
def signedOperand (a : Arg) : Int := a.toInt

/-- No operand: `arg` must be 0 (R308). -/
def noOperand (a : Arg) (i : Instr) : Except Reject Instr :=
  if a = 0 then .ok i else .error .nonzeroArg

/-- The opcode map (R305, R309). -/
def decodeOp (op : Nat) (a : Arg) : Except Reject Instr :=
  match op with
  | 0x0 => noOperand a .nop
  | 0x1 => .ok (.setn (unsignedOperand a))
  | 0x2 => .ok (.ldc (signedOperand a))
  | 0x3 => .ok (.setl (unsignedOperand a))
  | 0x4 => noOperand a .start
  | 0x5 => noOperand a .stop
  | 0x6 => noOperand a .init
  | 0x7 => .ok (.block (unsignedOperand a))
  | 0x8 => .ok (.push (signedOperand a))
  | 0x9 => .ok (.read (unsignedOperand a))
  | 0xA => .ok (.rdc (unsignedOperand a))
  | 0xB => noOperand a .clrerr
  | _ => .error .reservedOpcode

/-- Decoding, a total function of the 64-bit word (R309). The `rsv` check comes first (R304). -/
def decode (w : Word) : Except Reject Instr :=
  if rsvOf w ≠ 0 then .error .reservedBits else decodeOp (opOf w).toNat (argOf w)

/-! ### Encoding (R312) -/

/-- The opcode of a command (R305). -/
def Instr.opcode : Instr → Opcode
  | .nop => 0x0
  | .setn _ => 0x1
  | .ldc _ => 0x2
  | .setl _ => 0x3
  | .start => 0x4
  | .stop => 0x5
  | .init => 0x6
  | .block _ => 0x7
  | .push _ => 0x8
  | .read _ => 0x9
  | .rdc _ => 0xA
  | .clrerr => 0xB

/-- The operand's 32-bit pattern: two's complement for a signed operand, the operand for an unsigned one, 0 for a
command with no operand (R312). -/
def Instr.operand : Instr → Arg
  | .nop => 0
  | .setn n => BitVec.ofNat 32 n
  | .ldc c => BitVec.ofInt 32 c
  | .setl l => BitVec.ofNat 32 l
  | .start => 0
  | .stop => 0
  | .init => 0
  | .block m => BitVec.ofNat 32 m
  | .push x => BitVec.ofInt 32 x
  | .read sel => BitVec.ofNat 32 sel
  | .rdc k => BitVec.ofNat 32 k
  | .clrerr => 0

/-- The three fields put together: `{arg, rsv, op}` (R303). -/
def wordOf (a : Arg) (rsv : Reserved) (op : Opcode) : Word := a ++ rsv ++ op

/-- Encoding a command: `cmd_word = {arg[31:0], 28'b0, op[3:0]}` (R312). -/
def encode (i : Instr) : Word := wordOf i.operand 0 i.opcode

/-! ### The bus wrapper's bytes (20_memory.md R202)

The block itself has no byte order. R202 fixes what a wrapper would do: byte i carries bits 8i+7 .. 8i. -/

/-- The word that bytes 0, 1, ... carry: byte i in bits 8i+7 .. 8i, the first at the lowest place (R202). -/
def wordOfBytes : List Byte → Word
  | [] => 0
  | b :: bs => wordOfBytes bs <<< (8 : Nat) ||| b.setWidth 64

/-- The eight bytes of a word, byte 0 (with the opcode) first (R202). -/
def bytesOfWord (w : Word) : List Byte := (List.range 8).map fun i => w.extractLsb' (8 * i) 8

/-- The decoder on any list of bytes: eight bytes are one command word, any other number is none. -/
def decodeBytes (bs : List Byte) : Except Reject Instr :=
  if bs.length = 8 then decode (wordOfBytes bs) else .error .notEightBytes

/-! ### The host's question about a row of the opcode table -/

/-- The 64-bit command word of a table row's `nbits` bits `w`; the bits above `nbits` are 0. -/
def tableWord (nbits w : Nat) : Word := BitVec.ofNat 64 (w % 2 ^ nbits)

/-- What the decoder reads from an instruction whose bits are `w`, as spec/opcode_table.json numbers them, laid out as
bytes in the wrapper's order. No command is longer than 64 bits (R303). -/
def decodeTableWord (nbits w : Nat) : Option Instr :=
  if nbits ≤ 64 then
    match decodeBytes (bytesOfWord (tableWord nbits w)) with
    | .ok i => some i
    | .error _ => none
  else none

end Sys2Proof
end

