-- ==== Sys2Proof/Config.lean ====
section
/-! DEFINITION. The parameters the block is elaborated with (00_scope.md R6, R10).

The spec leaves no result of the block open, so this file holds no free value. -/

namespace Sys2Proof

/-- The parameters of 00_scope.md R6, as plain numbers; which sets of them are a legal elaboration is
`Params.Legal` (Machine/Elaboration.lean). `LAT` is not a field: R6 says it is not modelled. -/
structure Params where
  /-- `L`, the lane count. -/
  lanes : Nat
  /-- `NMAX`, the largest tap count the coefficient registers hold. -/
  nmax : Nat
  /-- `W_C`, the coefficient width in bits. -/
  wc : Nat
  /-- `W_X`, the input sample width in bits. -/
  wx : Nat
deriving DecidableEq, Repr

/-- The reference configuration of 00_scope.md R10: NMAX = 16, W_C = 8, W_X = 8 (and L = 2, R3). -/
def Params.reference : Params := { lanes := 2, nmax := 16, wc := 8, wx := 8 }

end Sys2Proof
end

