-- ==== Sys2Proof/Machine/Elaboration.lean ====
section
/-! DEFINITION. Which parameters are a legal elaboration, and the sizes and widths derived from them (00_scope.md R6, R8,
R9, R13, R501). -/

namespace Sys2Proof

/-- `clog2(n)`: the least c with 2^c ≥ n, for n ≥ 1 (00_scope.md R13). 0 at n = 0, outside R13's domain (DESIGN CHOICE,
log entry 21). -/
def clog2 (n : Nat) : Nat := if n ≤ 1 then 0 else Nat.log2 (n - 1) + 1

/-- The legal ranges of 00_scope.md R6. Any other set "is not a legal elaboration of this block" (R9). -/
abbrev Params.Legal (p : Params) : Prop :=
  p.lanes = 2 ∧ 1 ≤ p.nmax ∧ p.nmax ≤ 65536 ∧ 2 ≤ p.wc ∧ p.wc ≤ 32 ∧ 2 ≤ p.wx ∧ p.wx ≤ 32

/-- `K0 = ceil(NMAX/2)`, the number of lane-0 and sum-lane taps (R8). -/
def Params.k0 (p : Params) : Nat := (p.nmax + 1) / 2

/-- `K1 = floor(NMAX/2)`, the number of lane-1 taps (R8). -/
def Params.k1 (p : Params) : Nat := p.nmax / 2

/-- `W_Y = W_C + W_X + clog2(NMAX)`, the output sample width (R8). -/
def Params.wy (p : Params) : Nat := p.wc + p.wx + clog2 p.nmax

/-- `W_ACC = W_C + W_X + 2 + clog2(K0)`, the internal accumulator width (R8). -/
def Params.wacc (p : Params) : Nat := p.wc + p.wx + 2 + clog2 p.k0

/-- `W_RSP = max(W_Y, 32)`, the width of the response data port (R8). -/
def Params.wrsp (p : Params) : Nat := max p.wy 32

/-- The multipliers of the array built for NMAX: `2·K0 + K1` in the three MAC units (42_ffa_datapath.md R501). -/
def Params.multipliers (p : Params) : Nat := p.k0 + p.k1 + p.k0

/-- The multipliers active for a filter of n taps: `ceil(n/2) + floor(n/2) + ceil(n/2)` (42_ffa_datapath.md R501). -/
def activeMultipliers (n : Nat) : Nat := (n + 1) / 2 + n / 2 + (n + 1) / 2

end Sys2Proof
end

