-- ==== Sys2Proof/Machine/State.lean ====
section
/-! DEFINITION. The state of the block (10_state.md R102), its port (30_encoding.md R300 to R302) and its reset state
(70_reset_and_hazards.md R1100). -/

namespace Sys2Proof.Machine

open Sys2Proof

/-- The operating mode (10_state.md R103): CONFIG = 0, RUN = 1. -/
inductive Mode where
  /-- Coefficients can be written, no sample can be processed. -/
  | config
  /-- The coefficients are frozen, samples can be processed. -/
  | run
deriving DecidableEq, Repr

/-- The value of the 1-bit `phase`: the lane the next input sample enters (10_state.md R111). -/
inductive Lane where
  /-- Lane 0, even input indices. -/
  | lane0
  /-- Lane 1, odd input indices. -/
  | lane1
deriving DecidableEq, Repr

/-- The errors a command can raise (60_exceptions.md R1001). Each is an error RESPONSE, never a stop of the machine; the
codes are `Err.code` (Machine/Flags.lean). -/
inductive Err where
  /-- Any word that decodes to no command (R304, R306, R308). -/
  | illegal
  /-- A command in a mode it is not legal in (R1003). -/
  | mode
  /-- STOP, INIT or BLOCK while a block is unfinished. -/
  | busy
  /-- PUSH while no block is open. -/
  | noBlock
  /-- LDC while all taps are loaded. -/
  | coefFull
  /-- START while the coefficients are not all loaded. -/
  | coefIncomplete
  /-- An operand outside its range. -/
  | arg
  /-- SETL with a lane count other than 2. -/
  | laneCount
  /-- BLOCK 0. -/
  | emptyInput
  /-- Allocated, never raised by the block (41_lane_splitter.md R456). -/
  | lengthMismatch
deriving DecidableEq, Repr

/-- A response: the pair (`rsp_err`, `rsp_data`) of 30_encoding.md R310. `data` is the pattern on the W_RSP-bit port, read
as an unsigned number (00_scope.md R11). -/
structure Response where
  err : Code
  data : Nat
deriving DecidableEq, Repr

/-- The host's pins at one rising edge of `clk` (30_encoding.md R300). -/
structure Edge where
  rst : Bool
  cmdValid : Bool
  cmdWord : Word
  rspReady : Bool
deriving DecidableEq, Repr

/-- The state. The first sixteen fields after `params` are exactly the elements of 10_state.md R102. `params` are the
elaboration's constants (00_scope.md R6). `rsp` is the outstanding response, held until the host accepts it (R301, R302).
`host` is the model's own field: the pins the host drives at the coming edges, the next one first. -/
structure State where
  params : Params
  mode : Mode
  ntaps : Nat
  coef : List Int
  cptr : Nat
  h0 : List Int
  h1 : List Int
  hs : List Int
  xh0 : List Int
  xh1 : List Int
  xhs : List Int
  align : Int
  a0hold : Int
  phase : Lane
  blkRemain : Count
  scount : Count
  lastErr : Code
  rsp : Option Response
  host : List Edge
deriving DecidableEq, Repr

/-- Why the machine stops with a fault: never. The spec gives the block no trap and no stuck state: "Every error in this
block is an error response: the block answers and stays live" (93_implementation_defined.md §2; 60_exceptions.md R1005). The
type has no constructor, so no meaning can raise one. -/
inductive Fault where
deriving DecidableEq, Repr

/-- Why the model gives no meaning. -/
inductive Refusal where
  /-- An instruction without a meaning yet; raised by `exec`'s arms only, and by none of them now. Safe. -/
  | notModelled (mnemonic : String)
  /-- Raised by `step` and by `State.elaborate` on parameters outside 00_scope.md R6: "A model refuses it at construction and
  gives it no semantics" (R9). Safe: nothing can be proved of such a machine's steps. -/
  | illegalParameters
deriving DecidableEq, Repr

/-- What one step or one meaning answers. -/
abbrev Result := Host.Outcome State Fault Refusal

/-- The reset state of a block elaborated with parameters p (10_state.md R102; 70_reset_and_hazards.md R1100): CONFIG, every
register 0, no response outstanding. -/
def State.atReset (p : Params) : State where
  params := p
  mode := .config
  ntaps := 0
  coef := List.replicate p.nmax 0
  cptr := 0
  h0 := List.replicate p.k0 0
  h1 := List.replicate p.k1 0
  hs := List.replicate p.k0 0
  xh0 := List.replicate p.k0 0
  xh1 := List.replicate p.k1 0
  xhs := List.replicate p.k0 0
  align := 0
  a0hold := 0
  phase := .lane0
  blkRemain := 0
  scount := 0
  lastErr := 0
  rsp := none
  host := []

/-- Construction of a block: the reset state of a legal elaboration, a refusal of any other (00_scope.md R9). -/
def State.elaborate (p : Params) : Except Refusal State :=
  if p.Legal then .ok (State.atReset p) else .error .illegalParameters

/-- The machine right after reset, in the reference configuration (00_scope.md R10). Nothing is placed on the command port. -/
def State.reset : State := State.atReset Params.reference

end Sys2Proof.Machine
end

