-- ==== Sys2Proof/Machine/Operands.lean ====
section
/-! DEFINITION. Range checks of operands and the encoding of results on the response port (00_scope.md R12;
30_encoding.md R307, R310). Assembling an operand from its 32-bit field stands in Decode.lean. -/

namespace Sys2Proof.Machine

open Sys2Proof

/-- `inrange_s(v, W)`: −2^(W−1) ≤ v ≤ 2^(W−1) − 1 (00_scope.md R12). -/
abbrev InRangeS (v : Int) (w : Nat) : Prop := -(2 ^ (w - 1)) ≤ v ∧ v ≤ 2 ^ (w - 1) - 1

/-- `inrange_u(v, W)`: 0 ≤ v ≤ 2^W − 1 (00_scope.md R12). -/
abbrev InRangeU (v : Int) (w : Nat) : Prop := 0 ≤ v ∧ v ≤ 2 ^ w - 1

/-- The integer a W-bit two's complement pattern v denotes: `sext_W(v)` (00_scope.md R12). -/
def sext (w : Nat) (v : Nat) : Int := if v < 2 ^ (w - 1) then (v : Int) else (v : Int) - 2 ^ w

/-- The W-bit two's complement pattern of an integer (00_scope.md R12, `sext_W` when writing). -/
def signedPattern (w : Nat) (d : Int) : Nat := (d % 2 ^ w).toNat

/-- The W-bit pattern of an unsigned integer (00_scope.md R12, `zext_W`). -/
def unsignedPattern (w : Nat) (d : Nat) : Nat := d % 2 ^ w

/-- `rsp_data` for a signed result: its pattern in W_RSP bits (30_encoding.md R310). -/
def signedData (s : State) (d : Int) : Nat := signedPattern s.params.wrsp d

/-- `rsp_data` for an unsigned result: zero-extended to W_RSP bits (30_encoding.md R310). -/
def unsignedData (s : State) (d : Nat) : Nat := unsignedPattern s.params.wrsp d

end Sys2Proof.Machine
end

