-- ==== Sys2Proof/Machine/Flags.lean ====
section
/-! DEFINITION. The error codes (60_exceptions.md R1001) and the STATUS view, the block's only flags (10_state.md R117,
R118). No arithmetic result writes a flag (R118). -/

namespace Sys2Proof.Machine

open Sys2Proof

/-- The error codes of 60_exceptions.md R1001. Code 0 is OK, which is never raised. -/
def Err.code : Err → Code
  | .illegal => 1
  | .mode => 2
  | .busy => 3
  | .noBlock => 4
  | .coefFull => 5
  | .coefIncomplete => 6
  | .arg => 7
  | .laneCount => 8
  | .emptyInput => 9
  | .lengthMismatch => 10

/-- Code 0, OK: success (60_exceptions.md R1001). -/
def codeOK : Code := 0

/-- `mode` as a bit: 0 CONFIG, 1 RUN (10_state.md R102). -/
def Mode.bit : Mode → Nat
  | .config => 0
  | .run => 1

/-- `phase` as a bit (10_state.md R111). -/
def Lane.bit : Lane → Nat
  | .lane0 => 0
  | .lane1 => 1

/-- `1 − phase`: the lane after this one (44_cmd_stream.md R702). -/
def Lane.next : Lane → Lane
  | .lane0 => .lane1
  | .lane1 => .lane0

/-- STATUS bit 2, BLK_ACTIVE: a block is active while `blk_remain ≠ 0` (10_state.md R112, R117). -/
def blkActive (s : State) : Bool := decide (s.blkRemain ≠ 0)

/-- STATUS bit 3, CFG_DONE: `ntaps ≥ 1` and `cptr = ntaps` (10_state.md R117). -/
def cfgDone (s : State) : Bool := decide (1 ≤ s.ntaps ∧ s.cptr = s.ntaps)

/-- The STATUS view: MODE in bit 0, PHASE in bit 1, BLK_ACTIVE in bit 2, CFG_DONE in bit 3, LAST_ERR in bits 7:4, and 0 in
every other bit (10_state.md R117). -/
def statusView (s : State) : Nat :=
  s.mode.bit + 2 * s.phase.bit + 4 * (blkActive s).toNat + 8 * (cfgDone s).toNat + 16 * s.lastErr.toNat

end Sys2Proof.Machine
end

