-- ==== Sys2Proof/Machine/Sequence.lean ====
section
/-! DEFINITION. Sequences and convolution, the notation of 00_scope.md R14 to R16, and the lane functions split and merge
of 41_lane_splitter.md R450, R451. Everything here is a pure function on lists of integers. -/

namespace Sys2Proof

/-- `f 0 + f 1 + ... + f (n-1)`, an exact sum of integers. -/
def sumTo (f : Nat → Int) : Nat → Int
  | 0 => 0
  | n + 1 => sumTo f n + f n

/-- `s[i]`, with 0 outside the sequence (00_scope.md R14). -/
def elem (s : List Int) (i : Nat) : Int := s.getD i 0

/-- `s[i]` at an index that may be negative; 0 outside the sequence on either side (00_scope.md R14). -/
def elemZ (s : List Int) (i : Int) : Int := if i < 0 then 0 else elem s i.toNat

/-- `[v] ++ s[0..K-2]`: the shift-in of v at index 0 of a K-element shift register, dropping the last element; for K = 0 the
empty sequence (00_scope.md R14). -/
def shiftIn (v : Int) (s : List Int) : List Int := (v :: s).take s.length

/-- `A + B` element-wise, the shorter operand padded with zeros at its end (00_scope.md R16). -/
def seqAdd (a b : List Int) : List Int :=
  (List.range (max a.length b.length)).map fun i => elem a i + elem b i

/-- `A − B` element-wise, the shorter operand padded with zeros at its end (00_scope.md R16). -/
def seqSub (a b : List Int) : List Int :=
  (List.range (max a.length b.length)).map fun i => elem a i - elem b i

/-- `conv(H, X)[n] = sum_{k=0}^{len(H)-1} H[k] * X[n-k]`, with `X[m] = 0` for m < 0 (00_scope.md R15). -/
def convAt (h x : List Int) (n : Nat) : Int :=
  sumTo (fun k => elem h k * elemZ x ((n : Int) - (k : Int))) h.length

/-- `conv(H, X)`: the causal, zero-padded convolution truncated to the length of X (00_scope.md R15). -/
def conv (h x : List Int) : List Int := (List.range x.length).map (convAt h x)

/-- The length of lane p when a sequence of length n is split into L lanes: `ceil((n − p)/L)` for p < n, else 0
(41_lane_splitter.md R450). -/
def laneLength (n p L : Nat) : Nat := if p < n then (n - p + L - 1) / L else 0

/-- Lane p of `split(seq, L)`: `split(seq, L)[p][j] = seq[p + j*L]` (41_lane_splitter.md R450). -/
def laneOf (seq : List Int) (p L : Nat) : List Int :=
  (List.range (laneLength seq.length p L)).map fun j => elem seq (p + j * L)

/-- `split(seq, L)` for L ≥ 1: the L lanes (41_lane_splitter.md R450). -/
def split (seq : List Int) (L : Nat) : List (List Int) := (List.range L).map fun p => laneOf seq p L

/-- The failure of `merge` (41_lane_splitter.md R451). -/
inductive MergeError where
  /-- `LengthMismatchError`: the lane lengths fit no interleaving. -/
  | lengthMismatch
deriving DecidableEq, Repr

/-- The total length of the lanes (41_lane_splitter.md R451). -/
def totalLength (lanes : List (List Int)) : Nat := (lanes.map List.length).sum

/-- The lanes are valid when lanes 0 .. (total mod L) − 1 have length floor(total/L) + 1 and the rest floor(total/L): the
condition of 41_lane_splitter.md R451, with the reading of 90_conflicts.md C10 ("exactly the first"). -/
def validLanes (lanes : List (List Int)) : Bool :=
  let total := totalLength lanes
  let L := lanes.length
  (List.range L).all fun p =>
    decide ((lanes.getD p []).length = total / L + (if p < total % L then 1 else 0))

/-- `merge(lanes)` for L ≥ 1: `out[i] = lanes[i mod L][floor(i/L)]`, or `LengthMismatchError` (41_lane_splitter.md R451). No
lanes at all (L = 0) is outside R451's domain and is refused with the same error. -/
def merge (lanes : List (List Int)) : Except MergeError (List Int) :=
  if lanes ≠ [] ∧ validLanes lanes then
    .ok ((List.range (totalLength lanes)).map fun i => elem (lanes.getD (i % lanes.length) []) (i / lanes.length))
  else .error .lengthMismatch

end Sys2Proof
end

