-- ==== Sys2Proof/Machine/Ops.lean ====
section
/-! DEFINITION. The named operations the meanings share: answering and raising an error (60_exceptions.md R1000), the check
order (R1002), the filter-state clear (43_cmd_config.md R610), the LaneSet (10_state.md R107), the MAC units and the two
lane steps (42_ffa_datapath.md R502 to R504), reset (70_reset_and_hazards.md R1100). -/

namespace Sys2Proof.Machine

open Sys2Proof

/-! ### Completing a command -/

/-- `respond(OK, d)` with the data pattern on `rsp_data` (00_scope.md R17; 30_encoding.md R310). -/
def respond (data : Nat) (s : State) : Result := .next { s with rsp := some { err := codeOK, data := data } }

/-- The state in which error e has been raised: `last_err` and the response hold the code, `rsp_data` is 0, and nothing else
has changed (60_exceptions.md R1000). -/
def State.raised (e : Err) (s : State) : State :=
  { s with lastErr := e.code, rsp := some { err := e.code, data := 0 } }

/-- `raise E`, the block's whole exception entry (00_scope.md R17; 60_exceptions.md R1000, R1005): an error response. There
is no program counter, no mode or mask to change, and no return; the next command proceeds normally. -/
def raise (e : Err) (s : State) : Result := .next (s.raised e)

/-- The first error of a command's checks, in the order its pseudocode writes them (43_cmd_config.md, the template). -/
def firstError : List (Bool × Err) → Option Err
  | [] => none
  | (applies, e) :: rest => if applies then some e else firstError rest

/-- Runs a command's checks in order; the first that applies raises its error, and the command takes effect if none does
(43_cmd_config.md, the template; 60_exceptions.md R1002). -/
def guarded (checks : List (Bool × Err)) (s : State) (effect : Result) : Result :=
  match firstError checks with
  | some e => raise e s
  | none => effect

/-- The mode check (60_exceptions.md R1003): the command is legal in mode m only. -/
def notIn (m : Mode) (s : State) : Bool × Err := (decide (s.mode ≠ m), .mode)

/-! ### Filter state and coefficients -/

/-- `clear_fs(st)` (43_cmd_config.md R610): histories, align, a0hold, phase, blk_remain and scount become 0. -/
def State.clearFs (s : State) : State :=
  { s with
    xh0 := List.replicate s.params.k0 0
    xh1 := List.replicate s.params.k1 0
    xhs := List.replicate s.params.k0 0
    align := 0
    a0hold := 0
    phase := .lane0
    blkRemain := 0
    scount := 0 }

/-- Lane-0 taps: `h0[j] = coef[2j]` for j < ceil(ntaps/2), else 0, for 0 ≤ j < K0 (10_state.md R107). -/
def lane0Taps (p : Params) (ntaps : Nat) (coef : List Int) : List Int :=
  (List.range p.k0).map fun j => if j < (ntaps + 1) / 2 then elem coef (2 * j) else 0

/-- Lane-1 taps: `h1[j] = coef[2j+1]` for j < floor(ntaps/2), else 0, for 0 ≤ j < K1 (10_state.md R107). -/
def lane1Taps (p : Params) (ntaps : Nat) (coef : List Int) : List Int :=
  (List.range p.k1).map fun j => if j < ntaps / 2 then elem coef (2 * j + 1) else 0

/-- The coefficient pre-adder: `hs[j] = h0[j] + h1[j]`, h1[j] read as 0 for j ≥ K1, for 0 ≤ j < K0 (10_state.md R107;
42_ffa_datapath.md R500 item 2). -/
def sumTaps (p : Params) (h0 h1 : List Int) : List Int :=
  (List.range p.k0).map fun j => elem h0 j + (if j < p.k1 then elem h1 j else 0)

/-- The LaneSet derived from the loaded coefficients (10_state.md R107; 43_cmd_config.md R603). -/
def State.deriveLaneSet (s : State) : State :=
  { s with
    h0 := lane0Taps s.params s.ntaps s.coef
    h1 := lane1Taps s.params s.ntaps s.coef
    hs := sumTaps s.params (lane0Taps s.params s.ntaps s.coef) (lane1Taps s.params s.ntaps s.coef) }

/-! ### The datapath (42_ffa_datapath.md) -/

/-- A MAC unit with k multipliers: `sum_{j=0}^{k-1} taps[j] * hist[j]`, exact (R502). -/
def mac (k : Nat) (taps hist : List Int) : Int := sumTo (fun j => elem taps j * elem hist j) k

/-- MAC unit A0 (R502). -/
def mac0 (s : State) (hist : List Int) : Int := mac s.params.k0 s.h0 hist

/-- MAC unit A1 (R502); 0 if K1 = 0. -/
def mac1 (s : State) (hist : List Int) : Int := mac s.params.k1 s.h1 hist

/-- MAC unit S (R502). -/
def macs (s : State) (hist : List Int) : Int := mac s.params.k0 s.hs hist

/-- The result of the lane-0 step: `y = mac0(xh0') + align` (R503). -/
def output0 (s : State) (x : Int) : Int := mac0 s (shiftIn x s.xh0) + s.align

/-- The writes of the lane-0 step: `xh0 <- xh0'`, `a0hold <- a0` (R503). -/
def State.step0 (s : State) (x : Int) : State :=
  { s with xh0 := shiftIn x s.xh0, a0hold := mac0 s (shiftIn x s.xh0) }

/-- The input pre-adder: `xs = xh0[0] + x` (R504; R500 item 1). -/
def preAdd (s : State) (x : Int) : Int := elem s.xh0 0 + x

/-- The result of the lane-1 step: `y = macs(xhs') − a0hold − mac1(xh1')` (R504). -/
def output1 (s : State) (x : Int) : Int :=
  macs s (shiftIn (preAdd s x) s.xhs) - s.a0hold - mac1 s (shiftIn x s.xh1)

/-- The writes of the lane-1 step: `xh1 <- xh1'`, `xhs <- xhs'`, `align <- a1` (R504). -/
def State.step1 (s : State) (x : Int) : State :=
  { s with
    xh1 := shiftIn x s.xh1
    xhs := shiftIn (preAdd s x) s.xhs
    align := mac1 s (shiftIn x s.xh1) }

/-- The lane_splitter routes the sample to lane `phase` and takes that lane's output (41_lane_splitter.md R454, R455). -/
def laneOutput (s : State) (x : Int) : Int :=
  match s.phase with
  | .lane0 => output0 s x
  | .lane1 => output1 s x

/-- The writes of the lane step that `phase` selects (44_cmd_stream.md R702). -/
def State.laneStep (s : State) (x : Int) : State :=
  match s.phase with
  | .lane0 => s.step0 x
  | .lane1 => s.step1 x

/-- The sequencing of one PUSH: phase toggles, blk_remain counts down, scount counts up modulo 2^32 (44_cmd_stream.md
R702). -/
def State.advance (s : State) : State :=
  { s with phase := s.phase.next, blkRemain := s.blkRemain - 1, scount := s.scount + 1 }

/-! ### Reset -/

/-- The state after an edge with `rst = 1` (70_reset_and_hazards.md R1100): every element at its reset value, an outstanding
command abandoned with no response. The parameters are the elaboration's; the host's coming edges are the host's. -/
def State.resetEdge (s : State) : State := { State.atReset s.params with host := s.host }

end Sys2Proof.Machine
end

