-- ==== Sys2Proof/Machine/ConfigCommands.lean ====
section
/-! DEFINITION. The configuration commands SETN, LDC, SETL, START, STOP (43_cmd_config.md R600 to R604). -/

namespace Sys2Proof.Machine

open Sys2Proof

/-- SETN n (43_cmd_config.md R600): set the tap count, restart loading, clear every coefficient. -/
def execSetn (n : Nat) (s : State) : Result :=
  guarded [notIn .config s, (decide (n < 1 ∨ s.params.nmax < n), .arg)] s
    (respond 0 { s with ntaps := n, cptr := 0, coef := List.replicate s.params.nmax 0 })

/-- LDC c (43_cmd_config.md R601): load the next coefficient tap. -/
def execLdc (c : Int) (s : State) : Result :=
  guarded [notIn .config s, (decide (s.cptr = s.ntaps), .coefFull), (decide (¬ InRangeS c s.params.wc), .arg)] s
    (respond 0 { s with coef := s.coef.set s.cptr c, cptr := s.cptr + 1 })

/-- SETL l (43_cmd_config.md R602): only L = 2 is accepted, and nothing changes. -/
def execSetl (l : Nat) (s : State) : Result :=
  guarded [notIn .config s, (decide (l ≠ 2), .laneCount)] s (respond 0 s)

/-- START (43_cmd_config.md R603): derive the LaneSet, clear the filter state, enter RUN. -/
def execStart (s : State) : Result :=
  guarded [notIn .config s, (decide (s.ntaps = 0 ∨ s.cptr ≠ s.ntaps), .coefIncomplete)] s
    (respond 0 { s.deriveLaneSet.clearFs with mode := .run })

/-- STOP (43_cmd_config.md R604): clear the filter state, return to CONFIG, keep coefficients and LaneSet. -/
def execStop (s : State) : Result :=
  guarded [notIn .run s, (decide (s.blkRemain ≠ 0), .busy)] s (respond 0 { s.clearFs with mode := .config })

end Sys2Proof.Machine
end

