-- ==== Sys2Proof/Machine/ReadbackCommands.lean ====
section
/-! DEFINITION. The readback and housekeeping commands READ, RDC, NOP, CLRERR (45_cmd_readback.md R800 to R803) and the
READ views (10_state.md R116). -/

namespace Sys2Proof.Machine

open Sys2Proof

/-- The identification word, ASCII "FFA2" (00_scope.md R2; 10_state.md R116). -/
def idWord : Nat := 0x46464132

/-- The views of 10_state.md R116, as the pattern on `rsp_data`: ALIGN and A0HOLD sign-extended, all others zero-extended.
No view beyond selector 12. -/
def view (s : State) (sel : Nat) : Option Nat :=
  match sel with
  | 0 => some (unsignedData s (statusView s))
  | 1 => some (unsignedData s s.ntaps)
  | 2 => some (unsignedData s 2)
  | 3 => some (unsignedData s s.cptr)
  | 4 => some (unsignedData s s.blkRemain.toNat)
  | 5 => some (unsignedData s s.scount.toNat)
  | 6 => some (signedData s s.align)
  | 7 => some (signedData s s.a0hold)
  | 8 => some (unsignedData s s.params.nmax)
  | 9 => some (unsignedData s s.params.wc)
  | 10 => some (unsignedData s s.params.wx)
  | 11 => some (unsignedData s s.params.wy)
  | 12 => some (unsignedData s idWord)
  | _ => none

/-- READ sel (45_cmd_readback.md R800): read a view; ARG for a selector above 12. -/
def execRead (sel : Nat) (s : State) : Result :=
  match view s sel with
  | some d => respond d s
  | none => raise .arg s

/-- RDC k (45_cmd_readback.md R801): read one coefficient register; ARG for k ≥ NMAX. -/
def execRdc (k : Nat) (s : State) : Result :=
  guarded [(decide (s.params.nmax ≤ k), .arg)] s (respond (signedData s (elem s.coef k)) s)

/-- NOP (45_cmd_readback.md R802): do nothing. -/
def execNop (s : State) : Result := respond 0 s

/-- CLRERR (45_cmd_readback.md R803): answer the sticky error code and clear it. -/
def execClrerr (s : State) : Result := respond (unsignedData s s.lastErr.toNat) { s with lastErr := 0 }

end Sys2Proof.Machine
end

