-- ==== Sys2Proof/Machine/StreamCommands.lean ====
section
/-! DEFINITION. The streaming commands INIT, BLOCK, PUSH (44_cmd_stream.md R700 to R702). -/

namespace Sys2Proof.Machine

open Sys2Proof

/-- INIT (44_cmd_stream.md R700): re-initialise the filter state, keeping the filter. -/
def execInit (s : State) : Result :=
  guarded [notIn .run s, (decide (s.blkRemain ≠ 0), .busy)] s (respond 0 s.clearFs)

/-- BLOCK m (44_cmd_stream.md R701): open a call of m input samples. -/
def execBlock (m : Nat) (s : State) : Result :=
  guarded [notIn .run s, (decide (s.blkRemain ≠ 0), .busy), (decide (m = 0), .emptyInput)] s
    (respond 0 { s with blkRemain := BitVec.ofNat 32 m })

/-- PUSH x (44_cmd_stream.md R702): process one input sample and return one output sample. -/
def execPush (x : Int) (s : State) : Result :=
  guarded [notIn .run s, (decide (s.blkRemain = 0), .noBlock), (decide (¬ InRangeS x s.params.wx), .arg)] s
    (respond (signedData s (laneOutput s x)) (s.laneStep x).advance)

end Sys2Proof.Machine
end

