-- ==== Sys2Proof/Machine/Dispatch.lean ====
section
/-! DEFINITION. One arm per command (30_encoding.md R305). -/

namespace Sys2Proof.Machine

def exec (i : Instr) (s : State) : Host.Outcome State Fault Refusal :=
  match i with
  | .nop => Sys2Proof.Machine.execNop s
  | .setn n => Sys2Proof.Machine.execSetn n s
  | .ldc c => Sys2Proof.Machine.execLdc c s
  | .setl l => Sys2Proof.Machine.execSetl l s
  | .start => Sys2Proof.Machine.execStart s
  | .stop => Sys2Proof.Machine.execStop s
  | .init => Sys2Proof.Machine.execInit s
  | .block m => Sys2Proof.Machine.execBlock m s
  | .push x => Sys2Proof.Machine.execPush x s
  | .read sel => Sys2Proof.Machine.execRead sel s
  | .rdc k => Sys2Proof.Machine.execRdc k s
  | .clrerr => Sys2Proof.Machine.execClrerr s

end Sys2Proof.Machine
end

