-- ==== Sys2Proof/Machine/Port.lean ====
section
/-! DEFINITION. The command and response ports: the outputs the block drives and what one rising edge of `clk` does
(30_encoding.md R300 to R302; 60_exceptions.md R1007; 70_reset_and_hazards.md R1100). -/

namespace Sys2Proof.Machine

open Sys2Proof

/-! ### Outputs -/

/-- A command is outstanding from its transfer until its response transfers (R302). -/
def State.outstanding (s : State) : Bool := s.rsp.isSome

/-- `cmd_ready`: 1 whenever no command is outstanding and `rst = 0` (R302). -/
def State.cmdReady (s : State) (rst : Bool) : Bool := !rst && !s.outstanding

/-- `rsp_valid`: the block presents a response; 0 while `rst = 1` (R300; R1100). -/
def State.rspValid (s : State) (rst : Bool) : Bool := !rst && s.outstanding

/-- (`rsp_err`, `rsp_data`) while `rsp_valid = 1`. Between responses the spec gives them no value (10_state.md R102). -/
def State.rspPort (s : State) (rst : Bool) : Option Response := if rst then none else s.rsp

/-- A command transfers at this edge: `rst = 0`, `cmd_valid = 1` and `cmd_ready = 1` (R301). -/
def State.accepts (s : State) (e : Edge) : Bool := e.cmdValid && s.cmdReady e.rst

/-- A response transfers at this edge: `rst = 0`, `rsp_valid = 1` and `rsp_ready = 1` (R301). -/
def State.delivers (s : State) (e : Edge) : Bool := e.rspReady && s.rspValid e.rst

/-! ### Commands -/

/-- A transferred command word runs its command; a word that is none raises ILLEGAL regardless of mode (R309). -/
def execWord (w : Word) (s : State) : Result :=
  match decode w with
  | .ok i => exec i s
  | .error _ => raise .illegal s

/-- What the block does at a rising edge with these pins. Reset wins (R1007). At most one of a command and a response
transfers, because `cmd_ready = 0` while a command is outstanding (R302). Otherwise the block holds its state (R301). -/
def atEdge (e : Edge) (s : State) : Result :=
  if e.rst then .next s.resetEdge
  else if s.delivers e then .next { s with rsp := none }
  else if s.accepts e then execWord e.cmdWord s
  else .next s

/-- One step: the next edge the host drives. With no edge to come the clock stands still and the state is held
(60_exceptions.md R1014; 93_implementation_defined.md I11). Illegal parameters have no semantics (00_scope.md R9). -/
def clockStep (s : State) : Result :=
  if s.params.Legal then
    match s.host with
    | [] => .next s
    | e :: rest => atEdge e { s with host := rest }
  else .refused .illegalParameters

/-- The edge at which the host presents a command word and nothing else. -/
def commandEdge (w : Word) : Edge := { rst := false, cmdValid := true, cmdWord := w, rspReady := false }

/-- The edge at which the host accepts a response and presents no command. -/
def acceptEdge : Edge := { rst := false, cmdValid := false, cmdWord := 0, rspReady := true }

/-- The edge at which the host asserts reset. -/
def resetPulse : Edge := { rst := true, cmdValid := false, cmdWord := 0, rspReady := false }

/-- The state in which the host presents the word w next, with no command outstanding. -/
def State.present (s : State) (w : Word) : State := { s with rsp := none, host := commandEdge w :: s.host }

end Sys2Proof.Machine
end

