-- ==== Sys2Proof/Machine/Step.lean ====
section
/-! DEFINITION. One step of the machine, and how the host's question places an instruction where step takes its next one. -/

namespace Sys2Proof.Machine

open Sys2Proof

/-- One rising edge of `clk` (30_encoding.md R301; Machine/Port.lean). -/
def step (s : State) : Host.Outcome State Fault Refusal := clockStep s

/-- s with the command word of a table row's bits presented on the command port next. The block fetches nothing (10_state.md
R101): the host presents each command, so this puts one more edge in front of the host's coming ones and leaves no command
outstanding. -/
def State.withFetchWord (s : State) (nbits w : Nat) : State := s.present (tableWord nbits w)

end Sys2Proof.Machine
end

