-- ==== Sys2Proof/Machine/Assembler.lean ====
section
/-! DEFINITION. The assembler syntax and the pseudo-instructions of 30_encoding.md R311 to R313. They are notation for command
sequences, outside the block: the machine never calls them. Text is a list of characters, one line at a time. -/

namespace Sys2Proof

/-! ### Pseudo-instructions (R313) -/

/-- `LOADH c0, ..., c(N−1)`: SETN N, then LDC of each tap (R313). -/
def loadh (taps : List Int) : List Instr := .setn taps.length :: taps.map .ldc

/-- `FILTER x0, ..., x(M−1)`: BLOCK M, then PUSH of each sample; with no sample, BLOCK 0 (R313). -/
def filter (samples : List Int) : List Instr := .block samples.length :: samples.map .push

/-- `SETUP c0, ..., c(N−1)`: SETL 2, LOADH, START (R313). -/
def setup (taps : List Int) : List Instr := .setl 2 :: loadh taps ++ [.start]

/-! ### Lines of text (R311) -/

/-- Why the assembler refuses a line (R311). -/
inductive AsmError where
  /-- the first word is no mnemonic. -/
  | unknownMnemonic
  /-- an operand is missing, is one too many, or is no number of the syntax. -/
  | badOperand
  /-- "An operand the command's kind cannot encode is an assembly error". -/
  | cannotEncode
deriving DecidableEq, Repr

/-- The line without its comment: `;` starts a comment. -/
def stripComment (cs : List Char) : List Char := cs.takeWhile (· != ';')

/-- Space and tab separate the words of a line. -/
def isBlank (c : Char) : Bool := c == ' ' || c == '\t' || c == '\r'

/-- A text without the blanks at both ends. -/
def trim (cs : List Char) : List Char := ((cs.dropWhile isBlank).reverse.dropWhile isBlank).reverse

/-- The pieces between commas, each without blanks at its ends; no piece for an empty text. -/
def pieces (cs : List Char) : List (List Char) :=
  if trim cs = [] then [] else (splitCommas cs).map trim
where
  splitCommas : List Char → List (List Char)
    | [] => [[]]
    | c :: rest =>
      if c == ',' then [] :: splitCommas rest
      else match splitCommas rest with
        | [] => [[c]]
        | p :: ps => (c :: p) :: ps

/-- The value of a digit of a base up to 16. -/
def digitValue (base : Nat) (c : Char) : Option Nat :=
  let n := c.toNat
  let v := if 48 ≤ n ∧ n ≤ 57 then n - 48
    else if 65 ≤ n ∧ n ≤ 70 then n - 55
    else if 97 ≤ n ∧ n ≤ 102 then n - 87
    else 16
  if v < base then some v else none

/-- The natural number that the digits after `acc` continue; none if a character is no digit of the base. -/
def digitsFrom (base acc : Nat) : List Char → Option Nat
  | [] => some acc
  | c :: rest =>
    match digitValue base c with
    | some v => digitsFrom base (acc * base + v) rest
    | none => none

/-- A number with at least one digit. -/
def digits (base : Nat) (cs : List Char) : Option Nat := if cs = [] then none else digitsFrom base 0 cs

/-- An operand: a decimal integer, optionally negative, or a `0x` hexadecimal integer (R311). -/
def number (cs : List Char) : Option Int :=
  match cs with
  | '0' :: 'x' :: rest => (digits 16 rest).map fun n => (n : Int)
  | '-' :: rest => (digits 10 rest).map fun n => -(n : Int)
  | _ => (digits 10 cs).map fun n => (n : Int)

/-- The selector names of 10_state.md R116, in the order of the selectors 0 .. 12. -/
def selectorNames : List (List Char) :=
  [['S', 'T', 'A', 'T', 'U', 'S'], ['N', 'T', 'A', 'P', 'S'], ['L', 'A', 'N', 'E', 'S'], ['C', 'P', 'T', 'R'],
    ['B', 'L', 'K', '_', 'R', 'E', 'M', 'A', 'I', 'N'], ['S', 'C', 'O', 'U', 'N', 'T'], ['A', 'L', 'I', 'G', 'N'],
    ['A', '0', 'H', 'O', 'L', 'D'], ['P', '_', 'N', 'M', 'A', 'X'], ['P', '_', 'W', 'C'], ['P', '_', 'W', 'X'],
    ['P', '_', 'W', 'Y'], ['I', 'D']]

/-- The operand of READ: a selector name or a number (R311). -/
def selector (cs : List Char) : Option Int :=
  if cs ∈ selectorNames then some (selectorNames.idxOf cs : Int) else number cs

/-- The single operand of a command, as its kind reads it. -/
def oneOperand (parse : List Char → Option Int) (ops : List (List Char)) (make : Int → Option Instr) :
    Except AsmError (List Instr) :=
  match ops with
  | [o] =>
    match parse o with
    | none => .error .badOperand
    | some v =>
      match make v with
      | some i => if i.wf then .ok [i] else .error .cannotEncode
      | none => .error .cannotEncode
  | _ => .error .badOperand

/-- An unsigned operand is an error when negative (R311: outside 0 .. 2^32−1). -/
def asUnsigned (f : Nat → Instr) (v : Int) : Option Instr := if v < 0 then none else some (f v.toNat)

/-- A command without an operand. -/
def noOperands (ops : List (List Char)) (i : Instr) : Except AsmError (List Instr) :=
  if ops = [] then .ok [i] else .error .badOperand

/-- The operands of a pseudo-instruction, expanded (R313). -/
def expandOperands (ops : List (List Char)) (f : List Int → List Instr) : Except AsmError (List Instr) :=
  match ops.mapM number with
  | none => .error .badOperand
  | some vs => if (f vs).all Instr.wf then .ok (f vs) else .error .cannotEncode

/-- One mnemonic, in capitals, with its operands (R311, R313). -/
def assembleMnemonic (name : List Char) (ops : List (List Char)) : Except AsmError (List Instr) :=
  if name = ['N', 'O', 'P'] then noOperands ops .nop
  else if name = ['S', 'E', 'T', 'N'] then oneOperand number ops (asUnsigned .setn)
  else if name = ['L', 'D', 'C'] then oneOperand number ops (fun v => some (.ldc v))
  else if name = ['S', 'E', 'T', 'L'] then oneOperand number ops (asUnsigned .setl)
  else if name = ['S', 'T', 'A', 'R', 'T'] then noOperands ops .start
  else if name = ['S', 'T', 'O', 'P'] then noOperands ops .stop
  else if name = ['I', 'N', 'I', 'T'] then noOperands ops .init
  else if name = ['B', 'L', 'O', 'C', 'K'] then oneOperand number ops (asUnsigned .block)
  else if name = ['P', 'U', 'S', 'H'] then oneOperand number ops (fun v => some (.push v))
  else if name = ['R', 'E', 'A', 'D'] then oneOperand selector ops (asUnsigned .read)
  else if name = ['R', 'D', 'C'] then oneOperand number ops (asUnsigned .rdc)
  else if name = ['C', 'L', 'R', 'E', 'R', 'R'] then noOperands ops .clrerr
  else if name = ['L', 'O', 'A', 'D', 'H'] then expandOperands ops loadh
  else if name = ['F', 'I', 'L', 'T', 'E', 'R'] then expandOperands ops filter
  else if name = ['S', 'E', 'T', 'U', 'P'] then expandOperands ops setup
  else .error .unknownMnemonic

/-- One line: `MNEMONIC` or `MNEMONIC operand`, mnemonics case-insensitive, `;` starting a comment (R311). A line with
nothing on it stands for no command. -/
def assembleLine (cs : List Char) : Except AsmError (List Instr) :=
  let line := trim (stripComment cs)
  let name := line.takeWhile (fun c => !isBlank c)
  if name = [] then .ok []
  else assembleMnemonic (name.map Char.toUpper) (pieces (line.drop name.length))

/-- A command sequence: one line after another; the first line the assembler refuses is its answer. -/
def assemble : List (List Char) → Except AsmError (List Instr)
  | [] => .ok []
  | l :: ls =>
    match assembleLine l, assemble ls with
    | .error e, _ => .error e
    | .ok _, .error e => .error e
    | .ok is, .ok js => .ok (is ++ js)

end Sys2Proof
end

