-- ==== Sys2Proof/Machine/Reference.lean ====
section
/-! DEFINITION. The reference functions of the spec that are no hardware of the block: the golden function `ref`
(46_reference_fir.md), the batch form of the FFA algebra (42_ffa_datapath.md) and the host's
coefficient preparation `adapt` (40_coefficient_adapter.md). The machine never calls
them; statements about the machine do. -/

namespace Sys2Proof

/-- `ref(h, x)` for N ≥ 1 taps and M ≥ 1 samples is `conv(h, x)` (46_reference_fir.md R900). It is not defined for a
zero-length input (R903, EmptyInputError) nor without taps (R900 asks N ≥ 1). -/
def refFir (h x : List Int) : Option (List Int) :=
  if h = [] ∨ x = [] then none else some (conv h x)

/-- The batch form of the FFA algebra on whole sequences (00_scope.md §5; 42_ffa_datapath.md R500 items 1 to 7, R511): lane
outputs `Y0[n] = A0[n] + A1[n−1]` and `Y1[n] = S[n] − A0[n] − A1[n]`, with Y1 cut to the length of X1 (the padded Y1 of an
odd-length input "is discarded"). -/
def ffaLanes (h x : List Int) : List Int × List Int :=
  let h0 := laneOf h 0 2
  let h1 := laneOf h 1 2
  let x0 := laneOf x 0 2
  let x1 := laneOf x 1 2
  let a0 := conv h0 x0
  let a1 := conv h1 x1
  let sm := conv (seqAdd h0 h1) (seqAdd x0 x1)
  let y0 := (List.range x0.length).map fun n => elem a0 n + elemZ a1 ((n : Int) - 1)
  let y1 := seqSub (seqSub sm a0) a1
  (y0, y1.take x1.length)

/-- The lane outputs merged into one sequence (41_lane_splitter.md R455). -/
def ffaBatch (h x : List Int) : Except MergeError (List Int) := merge [(ffaLanes h x).1, (ffaLanes h x).2]

/-- The failure of `adapt` (40_coefficient_adapter.md R402). -/
inductive AdapterError where
  /-- `DegenerateFilterError`: every tap is zero, or there is no tap. -/
  | degenerateFilter
deriving DecidableEq, Repr

/-- `m = max_k |realCoeffs[k]|`, 0 for no taps (40_coefficient_adapter.md R402). -/
def maxMagnitude (taps : List ℚ) : ℚ := taps.foldr (fun t m => max |t| m) 0

/-- `round_half_away(v) = sign(v) * floor(|v| + 1/2)` (40_coefficient_adapter.md R404). -/
def roundHalfAway (v : ℚ) : Int := if v < 0 then -⌊|v| + 1 / 2⌋ else ⌊|v| + 1 / 2⌋

/-- `q[k] = round_half_away(realCoeffs[k] / m * (2^(width−1) − 1))` (40_coefficient_adapter.md R403), in exact rational
arithmetic (R406). At width = 0, where the spec gives no result, the natural subtraction makes `width - 1` 0, so the scale is 0
and the answer 0 (DESIGN CHOICE, log entry 21). -/
def quantise (m : ℚ) (width : Nat) (t : ℚ) : Int := roundHalfAway (t / m * (2 ^ (width - 1) - 1))

/-- `adapt(realCoeffs, width)`, on the rationals the f64 inputs denote (40_coefficient_adapter.md R401 to R406). It runs on
the host, before configuration; the block never computes it (R400). -/
def adapt (taps : List ℚ) (width : Nat) : Except AdapterError (List Int) :=
  if maxMagnitude taps = 0 then .error .degenerateFilter
  else .ok (taps.map (quantise (maxMagnitude taps) width))

end Sys2Proof
end

