-- ==== Sys2Proof/Safety.lean ====
section
/-! DEFINITION. The terms in which claims about runs are stated: the invariants of 10_state.md R115, when each error applies
(60_exceptions.md R1001), the transaction-level function of 30_encoding.md R302, the stream a running filter has processed
(10_state.md R108 to R113), and the host's duties (30_encoding.md R301; 70_reset_and_hazards.md R1104). -/

namespace Sys2Proof.Machine

open Sys2Proof

/-! ### Answers -/

/-- Command i, in state s, raises error e: the response is (code, 0) and `last_err` is the only state that changes
(60_exceptions.md R1000). -/
def Raises (i : Instr) (s : State) (e : Err) : Prop :=
  exec i s = .next { s with lastErr := e.code, rsp := some { err := e.code, data := 0 } }

/-- Command i, in state s, succeeds with the data pattern d, and t is the state it leaves but for the response. -/
def Succeeds (i : Instr) (s : State) (d : Nat) (t : State) : Prop :=
  exec i s = .next { t with rsp := some { err := 0, data := d } }

/-- When error e applies to a command, one line per row of the table of 60_exceptions.md R1001 (and R1003 for MODE), whatever
other errors apply too. ILLEGAL applies to words that are no command, so to none here. -/
def Applies (e : Err) (i : Instr) (s : State) : Prop :=
  match e with
  | .illegal => False
  | .mode =>
    match i with
    | .setn _ | .ldc _ | .setl _ | .start => s.mode = .run
    | .stop | .init | .block _ | .push _ => s.mode = .config
    | .nop | .read _ | .rdc _ | .clrerr => False
  | .busy =>
    match i with
    | .stop | .init | .block _ => s.blkRemain ≠ 0
    | .nop | .setn _ | .ldc _ | .setl _ | .start | .push _ | .read _ | .rdc _ | .clrerr => False
  | .noBlock =>
    match i with
    | .push _ => s.blkRemain = 0
    | .nop | .setn _ | .ldc _ | .setl _ | .start | .stop | .init | .block _ | .read _ | .rdc _ | .clrerr => False
  | .coefFull =>
    match i with
    | .ldc _ => s.cptr = s.ntaps
    | .nop | .setn _ | .setl _ | .start | .stop | .init | .block _ | .push _ | .read _ | .rdc _ | .clrerr => False
  | .coefIncomplete =>
    match i with
    | .start => s.ntaps = 0 ∨ s.cptr ≠ s.ntaps
    | .nop | .setn _ | .ldc _ | .setl _ | .stop | .init | .block _ | .push _ | .read _ | .rdc _ | .clrerr => False
  | .arg =>
    match i with
    | .setn n => n = 0 ∨ s.params.nmax < n
    | .ldc c => ¬ InRangeS c s.params.wc
    | .push x => ¬ InRangeS x s.params.wx
    | .read sel => 12 < sel
    | .rdc k => s.params.nmax ≤ k
    | .nop | .setl _ | .start | .stop | .init | .block _ | .clrerr => False
  | .laneCount =>
    match i with
    | .setl l => l ≠ 2
    | .nop | .setn _ | .ldc _ | .start | .stop | .init | .block _ | .push _ | .read _ | .rdc _ | .clrerr => False
  | .emptyInput =>
    match i with
    | .block m => m = 0
    | .nop | .setn _ | .ldc _ | .setl _ | .start | .stop | .init | .push _ | .read _ | .rdc _ | .clrerr => False
  | .lengthMismatch => False

/-! ### The invariants of 10_state.md R115 -/

/-- The register files have the sizes of 10_state.md R102. -/
structure Sized (s : State) : Prop where
  coef : s.coef.length = s.params.nmax
  h0 : s.h0.length = s.params.k0
  h1 : s.h1.length = s.params.k1
  hs : s.hs.length = s.params.k0
  xh0 : s.xh0.length = s.params.k0
  xh1 : s.xh1.length = s.params.k1
  xhs : s.xhs.length = s.params.k0

/-- Every element is within its width (10_state.md R115 item 6; widths of R102). The 1-bit, 4-bit and 32-bit elements are so
by their types. -/
structure InWidths (s : State) : Prop where
  coef : ∀ c ∈ s.coef, InRangeS c s.params.wc
  h0 : ∀ c ∈ s.h0, InRangeS c s.params.wc
  h1 : ∀ c ∈ s.h1, InRangeS c s.params.wc
  hs : ∀ c ∈ s.hs, InRangeS c (s.params.wc + 1)
  xh0 : ∀ x ∈ s.xh0, InRangeS x s.params.wx
  xh1 : ∀ x ∈ s.xh1, InRangeS x s.params.wx
  xhs : ∀ x ∈ s.xhs, InRangeS x (s.params.wx + 1)
  align : InRangeS s.align s.params.wacc
  a0hold : InRangeS s.a0hold s.params.wacc

/-- 10_state.md R115 item 3: in RUN the filter is complete and the LaneSet is R107's formula for coef and ntaps. -/
structure RunConfigured (s : State) : Prop where
  taps : 1 ≤ s.ntaps
  loaded : s.cptr = s.ntaps
  h0 : s.h0 = lane0Taps s.params s.ntaps s.coef
  h1 : s.h1 = lane1Taps s.params s.ntaps s.coef
  hs : s.hs = sumTaps s.params s.h0 s.h1

/-- 10_state.md R115 item 4: in CONFIG the filter state is clear. -/
structure FilterStateClear (s : State) : Prop where
  phase : s.phase = .lane0
  blkRemain : s.blkRemain = 0
  scount : s.scount = 0
  align : s.align = 0
  a0hold : s.a0hold = 0
  xh0 : ∀ x ∈ s.xh0, x = 0
  xh1 : ∀ x ∈ s.xh1, x = 0
  xhs : ∀ x ∈ s.xhs, x = 0

/-- The invariants of 10_state.md R115, with the sizes of R102, the error codes that exist (60_exceptions.md R1001:
`last_err` and `rsp_err` hold 0 to 9) and the form of a response (30_encoding.md R310). -/
structure Inv (s : State) : Prop where
  legal : s.params.Legal
  sized : Sized s
  cptr_le : s.cptr ≤ s.ntaps
  ntaps_le : s.ntaps ≤ s.params.nmax
  coef_beyond : ∀ k, s.ntaps ≤ k → elem s.coef k = 0
  run : s.mode = .run → RunConfigured s
  config : s.mode = .config → FilterStateClear s
  phase : s.phase.bit = s.scount.toNat % 2
  widths : InWidths s
  lastErr : s.lastErr.toNat ≤ 9
  response : ∀ r, s.rsp = some r → r.err.toNat ≤ 9 ∧ r.data < 2 ^ s.params.wrsp ∧ (r.err ≠ 0 → r.data = 0)

/-! ### The stream a running filter has processed -/

/-- The taps the filter runs with: h = coef[0..N−1] with N = ntaps (42_ffa_datapath.md R506). -/
def tapsOf (s : State) : List Int := s.coef.take s.ntaps

/-- In RUN, x is the sequence of samples accepted by PUSH since the last START or INIT, and the filter state is what 10_state.md
R108 to R111 and R113 say of it: X0 = split(x, 2)[0] and X1 = split(x, 2)[1]; the histories hold the last samples of each lane
in direct form, `align` the last A1, `a0hold` the last A0. -/
structure Streams (s : State) (x : List Int) : Prop where
  run : s.mode = .run
  inRange : ∀ v ∈ x, InRangeS v s.params.wx
  phase : s.phase.bit = x.length % 2
  scount : s.scount = BitVec.ofNat 32 x.length
  xh0 : s.xh0 = (List.range s.params.k0).map fun (j : Nat) =>
    elemZ (laneOf x 0 2) ((laneLength x.length 0 2 : Int) - 1 - (j : Int))
  xh1 : s.xh1 = (List.range s.params.k1).map fun (j : Nat) =>
    elemZ (laneOf x 1 2) ((laneLength x.length 1 2 : Int) - 1 - (j : Int))
  xhs : s.xhs = (List.range s.params.k0).map fun (j : Nat) =>
    elemZ (laneOf x 0 2) ((laneLength x.length 1 2 : Int) - 1 - (j : Int)) +
      elemZ (laneOf x 1 2) ((laneLength x.length 1 2 : Int) - 1 - (j : Int))
  align : s.align = elemZ (conv (laneOf (tapsOf s) 1 2) (laneOf x 1 2)) ((laneLength x.length 1 2 : Int) - 1)
  a0hold : s.a0hold = elemZ (conv (laneOf (tapsOf s) 0 2) (laneOf x 0 2)) ((laneLength x.length 0 2 : Int) - 1)

/-! ### Runs at transaction level -/

/-- `step(st, cmd_word) = (st', rsp_err, rsp_data)`: one command and the transfer of its response (30_encoding.md R302). -/
def serve (w : Word) (s : State) : Option (State × Response) :=
  match execWord w s with
  | .next t => t.rsp.map fun r => ({ t with rsp := none }, r)
  | .fault _ => none
  | .refused _ => none

/-- A command sequence, in order: the final state and the sequence of responses (70_reset_and_hazards.md R1105). -/
def serveAll : List Word → State → Option (State × List Response)
  | [], s => some (s, [])
  | w :: ws, s =>
    match serve w s with
    | none => none
    | some (t, r) => (serveAll ws t).map fun (u, rs) => (u, r :: rs)

/-- The responses to the PUSH commands among a sequence of commands and their responses: the output of the calls
(44_cmd_stream.md R703). -/
def pushResponses : List Instr → List Response → List Response
  | .push _ :: is, r :: rs => r :: pushResponses is rs
  | _ :: is, _ :: rs => pushResponses is rs
  | [], _ => []
  | _ :: _, [] => []

/-- The two edges of one transaction: the host presents the word, then accepts the response (30_encoding.md R301). -/
def transactionEdges (w : Word) : List Edge := [commandEdge w, acceptEdge]

/-! ### The host's duties -/

/-- Whether a command is outstanding after an edge (30_encoding.md R302). -/
def outstandingAfter (busy : Bool) (e : Edge) : Bool :=
  if e.rst then false else if busy then !e.rspReady else e.cmdValid

/-- The host holds a command it presents: at the edge after one where a presented command did not transfer, it presents the same
word or asserts reset. 30_encoding.md R301 says "While `cmd_valid = 1` and the command has not transferred, the host holds
`cmd_word` stable"; that the host also keeps `cmd_valid` at 1 until the transfer, and that the duty ends at an edge with
`rst = 1`, is this model's own reading (DESIGN CHOICE, log entry 19). -/
def HoldsCommand : Bool → List Edge → Prop
  | _, [] => True
  | _, [_] => True
  | busy, e :: e' :: rest =>
    ((busy = true ∧ e.cmdValid = true ∧ e.rst = false) →
      e'.rst = true ∨ (e'.cmdValid = true ∧ e'.cmdWord = e.cmdWord)) ∧
      HoldsCommand (outstandingAfter busy e) (e' :: rest)

end Sys2Proof.Machine
end

