-- ==== Sys2Proof/Certificates/Slice0/Obligations.lean ====
section
/-! DEFINITION. The statements for the provers, in the order of OBLIGATIONS.json. Each docstring names the rule of spec/ it
formalises. Nothing is proved here. -/

open Sys2Proof Sys2Proof.Machine

/-! ### Encoding -/

/-- 30_encoding.md R309 with R312: decoding an encoded well-formed command gives it back, for every command and every operand
the 32-bit field can hold. -/
def Obligations.DecodeOfEncode : Prop :=
  ∀ i : Instr, i.wf = true → decode (encode i) = .ok i

/-- 30_encoding.md R309 with R312: each command word has one meaning; a word that decodes to a command is that command's
encoding, and the command is well-formed. -/
def Obligations.EncodeOfDecode : Prop :=
  ∀ (w : Word) (i : Instr), decode w = .ok i → i.wf = true ∧ encode i = w

/-- 30_encoding.md R304, R306, R308: a word with a nonzero reserved field, with opcode 0xC to 0xF, or with a nonzero operand
field on NOP, START, STOP, INIT or CLRERR raises ILLEGAL and changes nothing but last_err; every other word is a command. -/
def Obligations.WordIsCommandOrRaisesIllegal : Prop :=
  ∀ (w : Word) (s : State),
    (rsvOf w ≠ 0 ∨ 12 ≤ (opOf w).toNat ∨ ((opOf w).toNat ∈ [0, 4, 5, 6, 11] ∧ argOf w ≠ 0) →
      execWord w s = .next { s with lastErr := 1, rsp := some { err := 1, data := 0 } }) ∧
    (¬ (rsvOf w ≠ 0 ∨ 12 ≤ (opOf w).toNat ∨ ((opOf w).toNat ∈ [0, 4, 5, 6, 11] ∧ argOf w ≠ 0)) →
      ∃ i : Instr, decode w = .ok i ∧ execWord w s = exec i s)

/-- 30_encoding.md R312, its four examples, and one word of the readback family, read by the decoder and written by the
encoder. -/
def Obligations.ExampleWordsDecode : Prop :=
  decode 0xFFFFFFFF00000008 = .ok (.push (-1)) ∧ encode (.push (-1)) = 0xFFFFFFFF00000008 ∧
  decode 0x0000000400000001 = .ok (.setn 4) ∧ encode (.setn 4) = 0x0000000400000001 ∧
  decode 0x0000000000000004 = .ok .start ∧ encode .start = 0x0000000000000004 ∧
  decode 0xFFFFFF8100000002 = .ok (.ldc (-127)) ∧ encode (.ldc (-127)) = 0xFFFFFF8100000002 ∧
  decode 0x0000000C00000009 = .ok (.read 12) ∧ encode (.read 12) = 0x0000000C00000009

/-- 20_memory.md R202, its choice for a wrapper (log entry 11): in little-endian order byte i of a word is its bits 8i+7 .. 8i, and the eight bytes give
the word back, so the decoder reads from the bytes what it reads from the word. -/
def Obligations.WrapperBytesAreLittleEndian : Prop :=
  ∀ w : Word,
    (∀ i, i < 8 → ∀ b, b < 8 → ((bytesOfWord w).getD i 0).getLsbD b = w.getLsbD (8 * i + b)) ∧
    wordOfBytes (bytesOfWord w) = w ∧ decodeBytes (bytesOfWord w) = decode w

/-- 30_encoding.md R311, with the model's reading of the text (log entry 12): the assembler never emits a command its word cannot hold, so every line it accepts encodes to words
that decode to that line's commands. -/
def Obligations.AssembledCommandsRoundTrip : Prop :=
  ∀ (line : List Char) (is : List Instr), assembleLine line = .ok is →
    ∀ i ∈ is, i.wf = true ∧ decode (encode i) = .ok i

/-! ### The port -/

/-- 30_encoding.md R301, R302, R309: at an edge where a command transfers (rst = 0, cmd_valid = 1, no command outstanding), a
step is the decoded command's meaning at the state whose edge has passed. That its response is outstanding at once, with no LAT
cycles, is the model's choice (log entry 2). -/
def Obligations.StepRunsDecodedCommand : Prop :=
  ∀ (s : State) (e : Edge) (rest : List Edge) (i : Instr),
    s.params.Legal → s.host = e :: rest → e.rst = false → e.cmdValid = true → s.rsp = none →
    decode e.cmdWord = .ok i → step s = exec i { s with host := rest }

/-- 70_reset_and_hazards.md R1100 (and 60_exceptions.md R1007: reset wins, whatever else the pins say): at an edge with
rst = 1 every element takes its reset value and an outstanding command is abandoned with no response. While rst = 1, cmd_ready
and rsp_valid are 0; after it, cmd_ready is 1, STATUS reads 0 and READ 12 answers the ID word. -/
def Obligations.ResetClearsEverything : Prop :=
  (∀ (s : State) (e : Edge) (rest : List Edge),
    s.params.Legal → s.host = e :: rest → e.rst = true →
    ∃ t, step s = .next t ∧
      t.mode = .config ∧ t.ntaps = 0 ∧ t.cptr = 0 ∧ t.phase = .lane0 ∧ t.blkRemain = 0 ∧ t.scount = 0 ∧ t.lastErr = 0 ∧
      t.coef = List.replicate s.params.nmax 0 ∧ t.h0 = List.replicate s.params.k0 0 ∧
      t.h1 = List.replicate s.params.k1 0 ∧ t.hs = List.replicate s.params.k0 0 ∧
      t.xh0 = List.replicate s.params.k0 0 ∧ t.xh1 = List.replicate s.params.k1 0 ∧
      t.xhs = List.replicate s.params.k0 0 ∧ t.align = 0 ∧ t.a0hold = 0 ∧
      t.rsp = none ∧ t.cmdReady false = true ∧
      exec (.read 0) t = .next { t with rsp := some { err := 0, data := 0 } } ∧
      exec (.read 12) t = .next { t with rsp := some { err := 0, data := 0x46464132 } }) ∧
  (∀ s : State, s.cmdReady true = false ∧ s.rspValid true = false)

/-- 30_encoding.md R301, R302: while a command is outstanding the block takes no other; it holds its response until an edge
with rsp_ready = 1, where the response transfers and nothing else changes. -/
def Obligations.OutstandingResponseIsHeld : Prop :=
  ∀ (s : State) (e : Edge) (rest : List Edge) (r : Response),
    s.params.Legal → s.host = e :: rest → e.rst = false → s.rsp = some r →
    s.cmdReady false = false ∧ s.rspPort false = some r ∧
    step s = .next { s with host := rest, rsp := if e.rspReady then none else some r }

/-- 30_encoding.md R302 in the untimed model: two edges, the command's and its response's, carry out the transaction-level
function: from serve's answer (t, r) the first step presents r and the second leaves t. R302 gives the response after 1 to LAT
cycles; that it stands on the port right after the command's edge, so that two edges make a transaction, is the model's choice
(log entry 2, DESIGN CHOICE). -/
def Obligations.TransactionTakesTwoEdges : Prop :=
  ∀ (s t : State) (w : Word) (r : Response) (rest : List Edge),
    s.params.Legal → s.rsp = none → s.host = transactionEdges w ++ rest → serve w s = some (t, r) →
    ∃ u, step s = .next u ∧ u.rspPort false = some r ∧ step u = .next { t with host := rest }

/-- 30_encoding.md R301, R302 with the host's duty to hold its command, as HoldsCommand reads it (the model's choice, log entry
19): a command presented while another is outstanding runs, as
first presented, at the edge after the outstanding response transfers. -/
def Obligations.HeldCommandRunsNext : Prop :=
  ∀ (s : State) (r : Response) (e e' : Edge) (rest : List Edge) (i : Instr),
    s.params.Legal → s.rsp = some r → s.host = e :: e' :: rest → HoldsCommand s.outstanding s.host →
    e.rst = false → e.cmdValid = true → e.rspReady = true → e'.rst = false → decode e.cmdWord = .ok i →
    ∃ u, step s = .next u ∧ step u = exec i { s with rsp := none, host := rest }

/-- 30_encoding.md R302, 60_exceptions.md R1005: every command, in every state, is answered with one response and the machine
goes on; no command touches the parameters or the host's coming edges (the model's own fields, log entries 1 and 3). -/
def Obligations.EveryCommandIsAnswered : Prop :=
  ∀ (i : Instr) (s : State), ∃ (t : State) (r : Response),
    exec i s = .next t ∧ t.rsp = some r ∧ t.params = s.params ∧ t.host = s.host

/-- 93_implementation_defined.md section 2, 60_exceptions.md R1014, 30_encoding.md R301: the block never stops, and it holds
every state element between commands. A step from a state with legal parameters answers a next state with the same parameters,
which uses up one edge of the host's; where none is to come the clock stands still and the state is as it was; at an idle edge
(rst = 0, cmd_valid = 0, no command outstanding) nothing but the edge is gone. That the edges and the parameters are fields, and
that no edge to come means a stopped clock, is the model's choice (log entries 1, 3 and 5). -/
def Obligations.StepAlwaysContinues : Prop :=
  (∀ s : State, s.params.Legal →
    ∃ t, step s = .next t ∧ t.params = s.params ∧ t.host = s.host.tail ∧ (s.host = [] → t = s)) ∧
  (∀ (s : State) (e : Edge) (rest : List Edge),
    s.params.Legal → s.host = e :: rest → e.rst = false → e.cmdValid = false → s.rsp = none →
    step s = .next { s with host := rest })

/-- 00_scope.md R9: parameters outside R6's ranges are refused at construction and given no semantics. -/
def Obligations.IllegalParametersAreRefused : Prop :=
  (∀ p : Params, ¬ p.Legal → State.elaborate p = .error .illegalParameters) ∧
  (∀ p : Params, p.Legal → State.elaborate p = .ok (State.atReset p)) ∧
  (∀ s : State, ¬ s.params.Legal → step s = .refused .illegalParameters)

/-! ### Errors -/

/-- 60_exceptions.md R1000: a command answered with an error code changes nothing but last_err, which takes that code, and its
response data is 0. -/
def Obligations.ErrorChangesOnlyLastErr : Prop :=
  ∀ (w : Word) (s t : State) (r : Response), execWord w s = .next t → t.rsp = some r → r.err ≠ 0 →
    r.data = 0 ∧ t = { s with lastErr := r.err, rsp := some r }

/-- 60_exceptions.md R1002: of the errors that apply to a command, the one with the smallest code is reported; ILLEGAL comes
before all. A command to which none applies succeeds. Each command has at most one state check and one argument check. -/
def Obligations.SmallestErrorCodeIsReported : Prop :=
  (∀ (w : Word) (s : State) (x : Reject), decode w = .error x →
    execWord w s = .next { s with lastErr := 1, rsp := some { err := 1, data := 0 } }) ∧
  (∀ (i : Instr) (s : State) (e : Err), Applies e i s → (∀ e', Applies e' i s → e.code ≤ e'.code) → Raises i s e) ∧
  (∀ (i : Instr) (s : State), (∀ e, ¬ Applies e i s) → ∃ d t, Succeeds i s d t) ∧
  (∀ (i : Instr) (s : State) (e e' : Err), Applies e i s → Applies e' i s →
    (e ∈ [.busy, .noBlock, .coefFull, .coefIncomplete] ∧ e' ∈ [.busy, .noBlock, .coefFull, .coefIncomplete] ∨
      e ∈ [.arg, .laneCount, .emptyInput] ∧ e' ∈ [.arg, .laneCount, .emptyInput]) → e = e')

/-- 60_exceptions.md R1003: the mode table. NOP, READ, RDC and CLRERR never raise MODE; SETN, LDC, SETL and START raise it
exactly in RUN; STOP, INIT, BLOCK and PUSH exactly in CONFIG. -/
def Obligations.ModeTable : Prop :=
  ∀ (i : Instr) (s : State), Raises i s .mode ↔
    match i with
    | .nop | .read _ | .rdc _ | .clrerr => False
    | .setn _ | .ldc _ | .setl _ | .start => s.mode = .run
    | .stop | .init | .block _ | .push _ => s.mode = .config

/-- 10_state.md R114: last_err is sticky. A failing command (a word that is no command among them) overwrites it with its own
code, CLRERR and reset write 0, every other successful command leaves it. -/
def Obligations.LastErrIsSticky : Prop :=
  (∀ (i : Instr) (s t : State) (r : Response), exec i s = .next t → t.rsp = some r →
    (r.err ≠ 0 → t.lastErr = r.err) ∧
    (r.err = 0 → i ≠ .clrerr → t.lastErr = s.lastErr) ∧
    (i = .clrerr → t.lastErr = 0)) ∧
  (∀ (w : Word) (s t : State) (x : Reject), decode w = .error x → execWord w s = .next t → t.lastErr = 1) ∧
  (∀ (s t : State) (e : Edge) (rest : List Edge), s.host = e :: rest → e.rst = true → step s = .next t → t.lastErr = 0)

/-- 60_exceptions.md R1004: whether and which error a command raises does not depend on last_err, on earlier responses or on
what the host does later; issuing it again raises the same error. -/
def Obligations.RetryRaisesTheSameError : Prop :=
  ∀ (i : Instr) (s : State) (e : Err) (c : Code) (r : Option Response) (edges : List Edge), Raises i s e →
    Raises i { s with lastErr := c, rsp := r, host := edges } e

/-! ### Invariants and whole-machine rules -/

/-- 10_state.md R115 at reset, in the reference configuration (which configuration State.reset has is the model's choice, log
entry 3). -/
def Obligations.ResetStateHasInvariants : Prop := Inv State.reset

/-- 10_state.md R115 at reset, in every legal elaboration. -/
def Obligations.EveryElaborationStartsInInvariants : Prop :=
  ∀ p : Params, p.Legal → Inv (State.atReset p)

/-- 10_state.md R115: every step keeps the invariants, whatever the host does. -/
def Obligations.EveryStepKeepsInvariants : Prop :=
  ∀ s t : State, Inv s → step s = .next t → Inv t

/-- 10_state.md R103: of the commands, only START (CONFIG to RUN) and STOP (RUN to CONFIG) write mode. -/
def Obligations.OnlyStartAndStopChangeMode : Prop :=
  ∀ (i : Instr) (s t : State), exec i s = .next t → t.mode ≠ s.mode →
    (i = .start ∧ s.mode = .config ∧ t.mode = .run) ∨ (i = .stop ∧ s.mode = .run ∧ t.mode = .config)

/-- 10_state.md R104 to R106: of the commands, only SETN writes ntaps, only SETN and LDC write cptr and coef, and only in
CONFIG; LDC writes the one register coef[cptr]. -/
def Obligations.CoefficientWriters : Prop :=
  ∀ (i : Instr) (s t : State), exec i s = .next t →
    (t.ntaps ≠ s.ntaps → s.mode = .config ∧ i = .setn t.ntaps ∧ 1 ≤ t.ntaps ∧ t.ntaps ≤ s.params.nmax) ∧
    (t.cptr ≠ s.cptr → s.mode = .config ∧
      ((∃ n, i = .setn n ∧ t.cptr = 0) ∨ (∃ c, i = .ldc c ∧ t.cptr = s.cptr + 1))) ∧
    (t.coef ≠ s.coef → s.mode = .config ∧
      ((∃ n, i = .setn n ∧ ∀ k, elem t.coef k = 0) ∨
        (∃ c, i = .ldc c ∧ ∀ k, k ≠ s.cptr → elem t.coef k = elem s.coef k)))

/-- 10_state.md R107: of the commands, only START writes h0, h1 and hs. -/
def Obligations.OnlyStartWritesLaneSet : Prop :=
  ∀ (i : Instr) (s t : State), exec i s = .next t → i ≠ .start → t.h0 = s.h0 ∧ t.h1 = s.h1 ∧ t.hs = s.hs

/-- 10_state.md R108 to R113: of the commands, only PUSH, START, STOP and INIT write the histories, align, a0hold, phase and
scount; blk_remain is written by these and by BLOCK. A phase-0 PUSH leaves xh1, xhs and align, a phase-1 PUSH leaves xh0 and
a0hold. -/
def Obligations.FilterStateWriters : Prop :=
  ∀ (i : Instr) (s t : State), exec i s = .next t → i ≠ .start → i ≠ .stop → i ≠ .init →
    ((∀ m, i ≠ .block m) → (∀ x, i ≠ .push x) → t.blkRemain = s.blkRemain) ∧
    ((∀ x, i ≠ .push x) → t.xh0 = s.xh0 ∧ t.xh1 = s.xh1 ∧ t.xhs = s.xhs ∧ t.align = s.align ∧ t.a0hold = s.a0hold ∧
      t.phase = s.phase ∧ t.scount = s.scount) ∧
    (s.phase = .lane0 → t.xh1 = s.xh1 ∧ t.xhs = s.xhs ∧ t.align = s.align) ∧
    (s.phase = .lane1 → t.xh0 = s.xh0 ∧ t.a0hold = s.a0hold)

/-- 70_reset_and_hazards.md R1102: what reset, a successful START, STOP and INIT clear, keep and derive. -/
def Obligations.ClearingTable : Prop :=
  (∀ s t : State, (t = s.resetEdge ∨ ∃ i d u, i ∈ [Instr.start, .stop, .init] ∧ Succeeds i s d u ∧ t = u) →
    t.xh0 = List.replicate s.params.k0 0 ∧ t.xh1 = List.replicate s.params.k1 0 ∧ t.xhs = List.replicate s.params.k0 0 ∧
    t.align = 0 ∧ t.a0hold = 0 ∧ t.phase = .lane0 ∧ t.blkRemain = 0 ∧ t.scount = 0) ∧
  (∀ s : State, s.resetEdge.mode = .config ∧ s.resetEdge.ntaps = 0 ∧ s.resetEdge.cptr = 0 ∧ s.resetEdge.lastErr = 0 ∧
    ∀ k, elem s.resetEdge.coef k = 0 ∧ elem s.resetEdge.h0 k = 0 ∧ elem s.resetEdge.h1 k = 0 ∧ elem s.resetEdge.hs k = 0) ∧
  (∀ (i : Instr) (d : Nat) (s t : State), i ∈ [Instr.start, .stop, .init] → Succeeds i s d t →
    t.ntaps = s.ntaps ∧ t.cptr = s.cptr ∧ t.coef = s.coef ∧ t.lastErr = s.lastErr) ∧
  (∀ (d : Nat) (s t : State), Succeeds .start s d t → t.mode = .run ∧ t.h0 = lane0Taps s.params s.ntaps s.coef ∧
    t.h1 = lane1Taps s.params s.ntaps s.coef ∧ t.hs = sumTaps s.params t.h0 t.h1) ∧
  (∀ (d : Nat) (s t : State), Succeeds .stop s d t → t.mode = .config ∧ t.h0 = s.h0 ∧ t.h1 = s.h1 ∧ t.hs = s.hs) ∧
  (∀ (d : Nat) (s t : State), Succeeds .init s d t → t.mode = .run ∧ s.mode = .run ∧ t.h0 = s.h0 ∧ t.h1 = s.h1 ∧ t.hs = s.hs)

/-- 70_reset_and_hazards.md R1104, 44_cmd_stream.md R703: an open call cannot be cancelled by any command. While a block is open
in RUN, STOP, INIT and BLOCK raise BUSY, mode stays RUN, and only a successful PUSH counts the block down, by one. -/
def Obligations.OpenCallCannotBeCancelled : Prop :=
  ∀ (i : Instr) (s : State), s.mode = .run → s.blkRemain ≠ 0 →
    ((i = .stop ∨ i = .init ∨ ∃ m, i = .block m) → Raises i s .busy) ∧
    (∀ t, exec i s = .next t → t.mode = .run ∧
      (t.blkRemain = s.blkRemain ∨
        ∃ x, i = .push x ∧ InRangeS x s.params.wx ∧ t.blkRemain.toNat + 1 = s.blkRemain.toNat))

/-! ### Configuration commands -/

/-- 43_cmd_config.md R600, SETN: its effect (ntaps = n, cptr = 0, every coef 0, answer (0, 0), all else unchanged, so CFG_DONE
reads 0), its errors and its encoding. -/
def Obligations.SetnSetsTapCountAndClearsCoef : Prop :=
  (∀ (n : Nat) (s : State), s.mode = .config → 1 ≤ n → n ≤ s.params.nmax →
    exec (.setn n) s = .next { s with
      ntaps := n, cptr := 0, coef := List.replicate s.params.nmax 0, rsp := some { err := 0, data := 0 } } ∧
    ∀ t, exec (.setn n) s = .next t → cfgDone t = false ∧ t.coef.length = s.params.nmax ∧ ∀ k, elem t.coef k = 0) ∧
  (∀ (n : Nat) (s : State), s.mode = .run → Raises (.setn n) s .mode) ∧
  (∀ (n : Nat) (s : State), s.mode = .config → n = 0 ∨ s.params.nmax < n → Raises (.setn n) s .arg) ∧
  (∀ n : Nat, n < 2 ^ 32 → encode (.setn n) = BitVec.ofNat 32 n ++ (0 : BitVec 28) ++ (1 : BitVec 4))

/-- 43_cmd_config.md R601, LDC: coef[cptr] takes c and cptr counts up, nothing else changes; CFG_DONE reads 1 exactly when this
was the last tap; its errors and its encoding. -/
def Obligations.LdcLoadsNextTap : Prop :=
  (∀ (c : Int) (s : State), s.mode = .config → s.cptr ≠ s.ntaps → InRangeS c s.params.wc →
    exec (.ldc c) s = .next { s with
      coef := s.coef.set s.cptr c, cptr := s.cptr + 1, rsp := some { err := 0, data := 0 } } ∧
    (s.cptr < s.coef.length → ∀ t, exec (.ldc c) s = .next t →
      (∀ k, elem t.coef k = if k = s.cptr then c else elem s.coef k) ∧
      (1 ≤ s.ntaps → cfgDone t = decide (s.cptr + 1 = s.ntaps)))) ∧
  (∀ (c : Int) (s : State), s.mode = .run → Raises (.ldc c) s .mode) ∧
  (∀ (c : Int) (s : State), s.mode = .config → s.cptr = s.ntaps → Raises (.ldc c) s .coefFull) ∧
  (∀ (c : Int) (s : State), s.mode = .config → s.cptr ≠ s.ntaps → ¬ InRangeS c s.params.wc → Raises (.ldc c) s .arg) ∧
  (∀ c : Int, encode (.ldc c) = BitVec.ofInt 32 c ++ (0 : BitVec 28) ++ (2 : BitVec 4))

/-- 43_cmd_config.md R602, SETL: 2 is accepted and changes no state, every other lane count raises LANE_COUNT; MODE in RUN; its
encoding. -/
def Obligations.SetlAcceptsOnlyTwo : Prop :=
  (∀ s : State, s.mode = .config → exec (.setl 2) s = .next { s with rsp := some { err := 0, data := 0 } }) ∧
  (∀ (l : Nat) (s : State), s.mode = .run → Raises (.setl l) s .mode) ∧
  (∀ (l : Nat) (s : State), s.mode = .config → l ≠ 2 → Raises (.setl l) s .laneCount) ∧
  (∀ l : Nat, l < 2 ^ 32 → encode (.setl l) = BitVec.ofNat 32 l ++ (0 : BitVec 28) ++ (3 : BitVec 4))

/-- 43_cmd_config.md R603 with 10_state.md R107, START: the LaneSet element by element, the filter state cleared, RUN entered,
all else unchanged; its errors, ILLEGAL for arg ≠ 0 among them, and its encoding. -/
def Obligations.StartDerivesLaneSetAndEntersRun : Prop :=
  (∀ s : State, s.mode = .config → s.ntaps ≠ 0 → s.cptr = s.ntaps →
    ∃ h0 h1 hs : List Int,
      exec .start s = .next { s with
        mode := .run, h0 := h0, h1 := h1, hs := hs,
        xh0 := List.replicate s.params.k0 0, xh1 := List.replicate s.params.k1 0, xhs := List.replicate s.params.k0 0,
        align := 0, a0hold := 0, phase := .lane0, blkRemain := 0, scount := 0, rsp := some { err := 0, data := 0 } } ∧
      h0.length = s.params.k0 ∧ h1.length = s.params.k1 ∧ hs.length = s.params.k0 ∧
      (∀ j, j < s.params.k0 → elem h0 j = if j < (s.ntaps + 1) / 2 then elem s.coef (2 * j) else 0) ∧
      (∀ j, j < s.params.k1 → elem h1 j = if j < s.ntaps / 2 then elem s.coef (2 * j + 1) else 0) ∧
      (∀ j, j < s.params.k0 → elem hs j = elem h0 j + if j < s.params.k1 then elem h1 j else 0)) ∧
  (∀ s : State, s.mode = .run → Raises .start s .mode) ∧
  (∀ s : State, s.mode = .config → s.ntaps = 0 ∨ s.cptr ≠ s.ntaps → Raises .start s .coefIncomplete) ∧
  (∀ (s : State) (w : Word), rsvOf w = 0 → opOf w = 4 → argOf w ≠ 0 →
    execWord w s = .next { s with lastErr := 1, rsp := some { err := 1, data := 0 } }) ∧
  encode .start = 0x0000000000000004

/-- 43_cmd_config.md R604 with R610, STOP: the filter state cleared, CONFIG entered, coefficients and LaneSet kept; its errors,
ILLEGAL for arg ≠ 0 among them, and its encoding. -/
def Obligations.StopReturnsToConfig : Prop :=
  (∀ s : State, s.mode = .run → s.blkRemain = 0 →
    exec .stop s = .next { s with
      mode := .config,
      xh0 := List.replicate s.params.k0 0, xh1 := List.replicate s.params.k1 0, xhs := List.replicate s.params.k0 0,
      align := 0, a0hold := 0, phase := .lane0, blkRemain := 0, scount := 0, rsp := some { err := 0, data := 0 } }) ∧
  (∀ s : State, s.mode = .config → Raises .stop s .mode) ∧
  (∀ s : State, s.mode = .run → s.blkRemain ≠ 0 → Raises .stop s .busy) ∧
  (∀ (s : State) (w : Word), rsvOf w = 0 → opOf w = 5 → argOf w ≠ 0 →
    execWord w s = .next { s with lastErr := 1, rsp := some { err := 1, data := 0 } }) ∧
  encode .stop = 0x0000000000000005

/-! ### Streaming commands -/

/-- 44_cmd_stream.md R700 with 43_cmd_config.md R610, INIT: the filter state cleared, coefficients, LaneSet and mode kept; on a
filter whose state is clear it changes nothing; its errors, ILLEGAL for arg ≠ 0 among them, and its encoding. -/
def Obligations.InitClearsFilterState : Prop :=
  (∀ s : State, s.mode = .run → s.blkRemain = 0 →
    exec .init s = .next { s with
      xh0 := List.replicate s.params.k0 0, xh1 := List.replicate s.params.k1 0, xhs := List.replicate s.params.k0 0,
      align := 0, a0hold := 0, phase := .lane0, blkRemain := 0, scount := 0, rsp := some { err := 0, data := 0 } }) ∧
  (∀ s : State, s.mode = .run → Sized s → FilterStateClear s →
    exec .init s = .next { s with rsp := some { err := 0, data := 0 } }) ∧
  (∀ s : State, s.mode = .config → Raises .init s .mode) ∧
  (∀ s : State, s.mode = .run → s.blkRemain ≠ 0 → Raises .init s .busy) ∧
  (∀ (s : State) (w : Word), rsvOf w = 0 → opOf w = 6 → argOf w ≠ 0 →
    execWord w s = .next { s with lastErr := 1, rsp := some { err := 1, data := 0 } }) ∧
  encode .init = 0x0000000000000006

/-- 44_cmd_stream.md R701, BLOCK: blk_remain takes m, from 1 to 2^32 − 1, and nothing else changes, so BLK_ACTIVE reads 1; its
errors and its encoding. -/
def Obligations.BlockOpensCall : Prop :=
  (∀ (m : Nat) (s : State), s.mode = .run → s.blkRemain = 0 → 1 ≤ m → m < 2 ^ 32 →
    ∃ t, exec (.block m) s = .next t ∧ t.blkRemain.toNat = m ∧ blkActive t = true ∧
      t = { s with blkRemain := t.blkRemain, rsp := some { err := 0, data := 0 } }) ∧
  (∀ (m : Nat) (s : State), s.mode = .config → Raises (.block m) s .mode) ∧
  (∀ (m : Nat) (s : State), s.mode = .run → s.blkRemain ≠ 0 → Raises (.block m) s .busy) ∧
  (∀ s : State, s.mode = .run → s.blkRemain = 0 → Raises (.block 0) s .emptyInput) ∧
  (∀ m : Nat, m < 2 ^ 32 → encode (.block m) = BitVec.ofNat 32 m ++ (0 : BitVec 28) ++ (7 : BitVec 4))

/-- 42_ffa_datapath.md R503, a PUSH with phase = 0: xh0' = [x] ++ xh0[0..K0−2], a0 = Σ h0[j]·xh0'[j], the answer is a0 + align
in W_RSP bits; xh0, a0hold, phase, blk_remain and scount are written, all else is unchanged. In a running filter the sample is
X0[n] with n = i/2 for its index i, and align holds A1[n−1], which is 0 for n = 0. -/
def Obligations.PushLaneZeroStep : Prop :=
  (∀ (x : Int) (s : State), s.mode = .run → s.blkRemain ≠ 0 → InRangeS x s.params.wx → s.phase = .lane0 →
    s.params.Legal → Sized s →
    ∀ (xh0 : List Int) (a0 : Int), xh0 = x :: s.xh0.take (s.params.k0 - 1) →
      a0 = ∑ j ∈ Finset.range s.params.k0, elem s.h0 j * elem xh0 j →
      exec (.push x) s = .next { s with
        xh0 := xh0, a0hold := a0, phase := .lane1, blkRemain := s.blkRemain - 1, scount := s.scount + 1,
        rsp := some { err := 0, data := signedPattern s.params.wrsp (a0 + s.align) } }) ∧
  (∀ (xs : List Int) (x : Int) (s : State), Streams s xs → s.phase = .lane0 →
    ∃ n : Nat, xs.length = 2 * n ∧ elem (laneOf (xs ++ [x]) 0 2) n = x ∧
      s.align = elemZ (conv (laneOf (tapsOf s) 1 2) (laneOf xs 1 2)) ((n : Int) - 1) ∧ (n = 0 → s.align = 0))

/-- 42_ffa_datapath.md R504, a PUSH with phase = 1: xs = xh0[0] + x, both histories shift (the K1-entry one only if K1 ≥ 1),
a1 = Σ h1[j]·xh1'[j], s = Σ hs[j]·xhs'[j], the answer is s − a0hold − a1 in W_RSP bits; xh1, xhs, align, phase, blk_remain and
scount are written, all else is unchanged. In a running filter the sample is X1[n], xh0[0] is X0[n] and a0hold is A0[n]. -/
def Obligations.PushLaneOneStep : Prop :=
  (∀ (x : Int) (s : State), s.mode = .run → s.blkRemain ≠ 0 → InRangeS x s.params.wx → s.phase = .lane1 →
    s.params.Legal → Sized s →
    ∀ (xh1 xhs : List Int) (a1 sm : Int), xh1 = (if s.params.k1 = 0 then [] else x :: s.xh1.take (s.params.k1 - 1)) →
      xhs = (elem s.xh0 0 + x) :: s.xhs.take (s.params.k0 - 1) →
      a1 = ∑ j ∈ Finset.range s.params.k1, elem s.h1 j * elem xh1 j →
      sm = ∑ j ∈ Finset.range s.params.k0, elem s.hs j * elem xhs j →
      exec (.push x) s = .next { s with
        xh1 := xh1, xhs := xhs, align := a1, phase := .lane0, blkRemain := s.blkRemain - 1, scount := s.scount + 1,
        rsp := some { err := 0, data := signedPattern s.params.wrsp (sm - s.a0hold - a1) } }) ∧
  (∀ (xs : List Int) (x : Int) (s : State), s.params.Legal → Streams s xs → s.phase = .lane1 →
    ∃ n : Nat, xs.length = 2 * n + 1 ∧ elem (laneOf (xs ++ [x]) 1 2) n = x ∧ elem s.xh0 0 = elem (laneOf xs 0 2) n ∧
      s.a0hold = elem (conv (laneOf (tapsOf s) 0 2) (laneOf xs 0 2)) n)

/-- 44_cmd_stream.md R702, PUSH in every state: a success toggles phase, counts blk_remain down and scount up modulo 2^32 and
leaves mode, the coefficients, the LaneSet and last_err; its errors consume no sample; its encoding. -/
def Obligations.PushSequencesOneSample : Prop :=
  (∀ (x : Int) (s : State), s.mode = .run → s.blkRemain ≠ 0 → InRangeS x s.params.wx →
    ∃ t d, exec (.push x) s = .next t ∧ t.rsp = some { err := 0, data := d } ∧
      t.phase.bit = 1 - s.phase.bit ∧ t.blkRemain.toNat + 1 = s.blkRemain.toNat ∧
      t.scount.toNat = (s.scount.toNat + 1) % 2 ^ 32 ∧
      t.mode = s.mode ∧ t.ntaps = s.ntaps ∧ t.cptr = s.cptr ∧ t.coef = s.coef ∧
      t.h0 = s.h0 ∧ t.h1 = s.h1 ∧ t.hs = s.hs ∧ t.lastErr = s.lastErr) ∧
  (∀ (x : Int) (s : State), s.mode = .config → Raises (.push x) s .mode) ∧
  (∀ (x : Int) (s : State), s.mode = .run → s.blkRemain = 0 → Raises (.push x) s .noBlock) ∧
  (∀ (x : Int) (s : State), s.mode = .run → s.blkRemain ≠ 0 → ¬ InRangeS x s.params.wx → Raises (.push x) s .arg) ∧
  (∀ x : Int, encode (.push x) = BitVec.ofInt 32 x ++ (0 : BitVec 28) ++ (8 : BitVec 4))

/-! ### Readback commands -/

/-- 45_cmd_readback.md R800 with 10_state.md R116, READ: the thirteen views, the zero-extended ones answered as they are,
ALIGN and A0HOLD as their pattern in W_RSP bits; no state changes; ALIGN in CONFIG reads 0 (R115); a selector above 12 raises
ARG; its encoding. -/
def Obligations.ReadAnswersViews : Prop :=
  (∀ s : State, s.params.Legal → s.ntaps ≤ s.params.nmax → s.cptr ≤ s.ntaps →
    ∀ (sel d : Nat), (sel, d) ∈ [(0, statusView s), (1, s.ntaps), (2, 2), (3, s.cptr), (4, s.blkRemain.toNat),
      (5, s.scount.toNat), (6, signedPattern s.params.wrsp s.align), (7, signedPattern s.params.wrsp s.a0hold),
      (8, s.params.nmax), (9, s.params.wc), (10, s.params.wx), (11, s.params.wy), (12, 0x46464132)] →
    exec (.read sel) s = .next { s with rsp := some { err := 0, data := d } }) ∧
  (∀ s : State, Inv s → s.mode = .config → exec (.read 6) s = .next { s with rsp := some { err := 0, data := 0 } }) ∧
  (∀ (sel : Nat) (s : State), 12 < sel → Raises (.read sel) s .arg) ∧
  (∀ sel : Nat, sel < 2 ^ 32 → encode (.read sel) = BitVec.ofNat 32 sel ++ (0 : BitVec 28) ++ (9 : BitVec 4))

/-- 10_state.md R117: STATUS bit by bit. MODE, PHASE, BLK_ACTIVE, CFG_DONE, LAST_ERR in bits 7:4, every other bit 0; after
reset STATUS reads 0. -/
def Obligations.StatusFields : Prop :=
  (∀ (s : State) (b : Nat), (statusView s).testBit b =
    if b = 0 then decide (s.mode = .run)
    else if b = 1 then decide (s.phase = .lane1)
    else if b = 2 then decide (s.blkRemain ≠ 0)
    else if b = 3 then decide (1 ≤ s.ntaps ∧ s.cptr = s.ntaps)
    else if b < 8 then s.lastErr.getLsbD (b - 4)
    else false) ∧
  statusView State.reset = 0

/-- 45_cmd_readback.md R801, RDC: coefficient register k as its pattern in W_RSP bits, which reads back as coef[k]; no state
changes; an index from ntaps to NMAX − 1 reads 0 (R115); k ≥ NMAX raises ARG in either mode; its encoding. -/
def Obligations.RdcAnswersCoefficient : Prop :=
  (∀ (k : Nat) (s : State), k < s.params.nmax →
    exec (.rdc k) s = .next { s with rsp := some { err := 0, data := signedPattern s.params.wrsp (elem s.coef k) } }) ∧
  (∀ (k : Nat) (s : State), Inv s → sext s.params.wrsp (signedPattern s.params.wrsp (elem s.coef k)) = elem s.coef k) ∧
  (∀ (k : Nat) (s : State), Inv s → s.ntaps ≤ k → k < s.params.nmax →
    exec (.rdc k) s = .next { s with rsp := some { err := 0, data := 0 } }) ∧
  (∀ (k : Nat) (s : State), s.params.nmax ≤ k → Raises (.rdc k) s .arg) ∧
  (∀ k : Nat, k < 2 ^ 32 → encode (.rdc k) = BitVec.ofNat 32 k ++ (0 : BitVec 28) ++ (10 : BitVec 4))

/-- 45_cmd_readback.md R802, NOP: answers (0, 0) in every state and changes no state, in an open block too; a NOP word with
arg ≠ 0 is ILLEGAL; its encoding. -/
def Obligations.NopChangesNothing : Prop :=
  (∀ s : State, exec .nop s = .next { s with rsp := some { err := 0, data := 0 } }) ∧
  (∀ (s : State) (w : Word), rsvOf w = 0 → opOf w = 0 → argOf w ≠ 0 →
    execWord w s = .next { s with lastErr := 1, rsp := some { err := 1, data := 0 } }) ∧
  encode .nop = 0x0000000000000000

/-- 45_cmd_readback.md R803, CLRERR: answers last_err zero-extended and clears it, in every state; an illegal CLRERR word
(arg ≠ 0) sets last_err to 1 instead; its encoding. -/
def Obligations.ClrerrAnswersAndClears : Prop :=
  (∀ s : State, exec .clrerr s = .next { s with
    lastErr := 0, rsp := some { err := 0, data := s.lastErr.toNat } }) ∧
  (∀ (s : State) (w : Word), rsvOf w = 0 → opOf w = 0xB → argOf w ≠ 0 →
    execWord w s = .next { s with lastErr := 1, rsp := some { err := 1, data := 0 } }) ∧
  encode .clrerr = 0x000000000000000B

/-! ### The filter -/

/-- 30_encoding.md R313, 43_cmd_config.md R600, R601: LOADH of in-range taps, in CONFIG, loads them in index order into a
coefficient vector that is 0 beyond them; each of its commands is answered (0, 0). -/
def Obligations.LoadhLoadsTheTaps : Prop :=
  ∀ (s : State) (h : List Int), Inv s → s.mode = .config → s.rsp = none → h ≠ [] → h.length ≤ s.params.nmax →
    (∀ c ∈ h, InRangeS c s.params.wc) →
    serveAll ((loadh h).map encode) s = some
      ({ s with ntaps := h.length, cptr := h.length, coef := h ++ List.replicate (s.params.nmax - h.length) 0 },
        List.replicate (h.length + 1) { err := 0, data := 0 })

/-- 10_state.md R107 to R113 at START: from a configured CONFIG state START leaves a filter that runs the loaded taps and has
processed no sample. -/
def Obligations.StartBeginsEmptyStream : Prop :=
  ∀ s : State, Inv s → s.mode = .config → s.ntaps ≠ 0 → s.cptr = s.ntaps →
    ∃ t, exec .start s = .next t ∧ Streams t [] ∧ tapsOf t = tapsOf s ∧ Inv t

/-- 44_cmd_stream.md R700, 42_ffa_datapath.md R509: INIT, with no block open, starts the stream again with the same taps. -/
def Obligations.InitBeginsEmptyStream : Prop :=
  ∀ (s : State) (x : List Int), Inv s → Streams s x → s.blkRemain = 0 →
    ∃ t, exec .init s = .next t ∧ Streams t [] ∧ tapsOf t = tapsOf s

/-- 42_ffa_datapath.md R506 with 10_state.md R108 to R113: a filter that has processed x and accepts one more sample v answers
the direct-form FIR output of its taps at v's index, and has then processed x ++ [v]. -/
def Obligations.PushAnswersReferenceOutput : Prop :=
  ∀ (s : State) (x : List Int) (v : Int), Inv s → Streams s x → s.blkRemain ≠ 0 → InRangeS v s.params.wx →
    ∀ y : Int, y = ∑ k ∈ Finset.range s.ntaps, elem s.coef k * elemZ (x ++ [v]) ((x.length : Int) - k) →
    ∃ t, exec (.push v) s = .next t ∧ Streams t (x ++ [v]) ∧ tapsOf t = tapsOf s ∧
      t.rsp = some { err := 0, data := signedPattern s.params.wrsp y }

/-- 44_cmd_stream.md R701, R703, 70_reset_and_hazards.md R1104: BLOCK, NOP, READ, RDC, CLRERR and every command that fails leave
the stream a running filter has processed as it is. -/
def Obligations.OtherCommandsKeepTheStream : Prop :=
  ∀ (i : Instr) (s t : State) (x : List Int) (r : Response), Streams s x → exec i s = .next t → t.rsp = some r →
    (r.err ≠ 0 ∨ (i ≠ .start ∧ i ≠ .stop ∧ i ≠ .init ∧ ∀ v, i ≠ .push v)) → Streams t x ∧ tapsOf t = tapsOf s

/-- 42_ffa_datapath.md R509: after START or INIT align is 0, and the first sample of the next block is answered with A0[0], which
is h[0]·x[0] exactly. -/
def Obligations.ColdStartAnswersFirstTap : Prop :=
  ∀ (i : Instr) (s u : State) (d m : Nat) (v : Int), Inv s → i ∈ [Instr.start, .init] → Succeeds i s d u →
    1 ≤ m → m < 2 ^ 32 → InRangeS v s.params.wx →
    u.align = 0 ∧ ∃ t w, exec (.block m) u = .next t ∧ exec (.push v) t = .next w ∧ w.a0hold = elem s.coef 0 * v ∧
      w.rsp = some { err := 0, data := signedPattern s.params.wrsp (elem s.coef 0 * v) }

/-- 42_ffa_datapath.md R505: the bounds of every value of the datapath while a filter streams, so that the pre-adders, the MAC
units, the combination adder and the two held registers never overflow and ALIGN and A0HOLD read back exactly. -/
def Obligations.DatapathNeverOverflows : Prop :=
  ∀ (s : State) (x : List Int) (v : Int), Inv s → Streams s x → InRangeS v s.params.wx →
    |preAdd s v| ≤ 2 ^ s.params.wx ∧ (∀ c ∈ s.hs, |c| ≤ 2 ^ s.params.wc) ∧
    |mac0 s (shiftIn v s.xh0)| ≤ s.params.k0 * 2 ^ (s.params.wc + s.params.wx - 2) ∧
    |mac1 s (shiftIn v s.xh1)| ≤ s.params.k1 * 2 ^ (s.params.wc + s.params.wx - 2) ∧
    |macs s (shiftIn (preAdd s v) s.xhs)| ≤ s.params.k0 * 2 ^ (s.params.wc + s.params.wx) ∧
    |macs s (shiftIn (preAdd s v) s.xhs) - s.a0hold| < 2 ^ (s.params.wacc - 1) ∧
    |mac0 s (shiftIn v s.xh0) + s.align| < 2 ^ (s.params.wacc - 1) ∧
    sext s.params.wrsp (signedPattern s.params.wrsp s.align) = s.align ∧
    sext s.params.wrsp (signedPattern s.params.wrsp s.a0hold) = s.a0hold

/-- 42_ffa_datapath.md R505, 30_encoding.md R310: every output of N ≤ NMAX in-range taps over in-range samples is at most
N·2^(W_C+W_X−2) in magnitude, fits W_Y bits, and is what its response pattern denotes. -/
def Obligations.OutputsFitTheResponsePort : Prop :=
  ∀ (p : Params) (h x : List Int) (n : Nat), p.Legal → h.length ≤ p.nmax → (∀ c ∈ h, InRangeS c p.wc) →
    (∀ v ∈ x, InRangeS v p.wx) →
    |convAt h x n| ≤ h.length * 2 ^ (p.wc + p.wx - 2) ∧
    (h.length : Int) * 2 ^ (p.wc + p.wx - 2) ≤ 2 ^ (p.wy - 1) - 1 ∧
    p.wy ≤ p.wrsp ∧ sext p.wrsp (signedPattern p.wrsp (convAt h x n)) = convAt h x n

/-- 42_ffa_datapath.md R506, R512 and 44_cmd_stream.md R703, from reset: in every legal elaboration, after SETUP of any N in-range
taps, 1 ≤ N ≤ NMAX, any sequence of calls, each of at least one in-range sample, is answered without error, and the responses to
the PUSH commands, joined over all calls, are the reference FIR of the joined samples, whatever the block boundaries. -/
def Obligations.FilterCallsEqualReferenceFir : Prop :=
  ∀ (p : Params) (h : List Int) (calls : List (List Int)) (ys : List Int), p.Legal →
    h.length ≤ p.nmax → (∀ c ∈ h, InRangeS c p.wc) →
    (∀ xs ∈ calls, xs ≠ [] ∧ xs.length < 2 ^ 32 ∧ ∀ v ∈ xs, InRangeS v p.wx) →
    refFir h calls.flatten = some ys →
    ∃ t rs, serveAll ((setup h ++ calls.flatMap filter).map encode) (State.atReset p) = some (t, rs) ∧
      (∀ r ∈ rs, r.err = 0) ∧ t.blkRemain = 0 ∧
      pushResponses (setup h ++ calls.flatMap filter) rs =
        ys.map fun y => { err := 0, data := signedPattern p.wrsp y }

/-- 42_ffa_datapath.md R506 to R508, R510, R511 on whole sequences: the three convolutions and their combination, with the delayed
A1, merge to the direct-form FIR, for every tap count and every input length. -/
def Obligations.BatchFfaEqualsReferenceFir : Prop :=
  ∀ h x ys : List Int, refFir h x = some ys → ffaBatch h x = .ok ys

/-! ### Functions of the spec beside the block -/

/-- 41_lane_splitter.md R452: split and merge are inverse to each other; for L = 1 both are the identity; the empty sequence
splits into L empty lanes, which merge back to it. -/
def Obligations.SplitMergeBijection : Prop :=
  (∀ (seq : List Int) (L : Nat), 1 ≤ L → merge (split seq L) = .ok seq) ∧
  (∀ (lanes : List (List Int)) (out : List Int), 1 ≤ lanes.length → merge lanes = .ok out →
    split out lanes.length = lanes) ∧
  (∀ seq : List Int, split seq 1 = [seq] ∧ merge [seq] = .ok seq) ∧
  (∀ L : Nat, 1 ≤ L → split [] L = List.replicate L [] ∧ merge (List.replicate L []) = .ok [])

/-- 41_lane_splitter.md R451: merge fails with LengthMismatchError exactly where the lane lengths are not
len(lanes[0]) ≥ ... ≥ len(lanes[L−1]) ≥ len(lanes[0]) − 1, and otherwise out[i] = lanes[i mod L][floor(i/L)]. -/
def Obligations.MergeFailsExactlyOnInvalidLanes : Prop :=
  ∀ lanes : List (List Int), 1 ≤ lanes.length →
    ((lanes.map List.length).Pairwise (fun a b => b ≤ a) ∧
        (lanes.getD 0 []).length ≤ (lanes.getD (lanes.length - 1) []).length + 1 →
      ∃ out, merge lanes = .ok out ∧ out.length = totalLength lanes ∧
        ∀ i, i < totalLength lanes → elem out i = elem (lanes.getD (i % lanes.length) []) (i / lanes.length)) ∧
    (¬ ((lanes.map List.length).Pairwise (fun a b => b ≤ a) ∧
        (lanes.getD 0 []).length ≤ (lanes.getD (lanes.length - 1) []).length + 1) →
      merge lanes = .error .lengthMismatch)

/-- 40_coefficient_adapter.md R402, R405: adapt fails exactly on taps that are all zero (or none); otherwise it answers one
integer per tap, of magnitude at most 2^(width−1) − 1, so that LDC accepts each when width = W_C, and each tap of maximum
magnitude maps to exactly ±(2^(width−1) − 1), with its sign. The results are stated for every width ≥ 1: at width 0 the spec
gives none (log entry 21). -/
def Obligations.AdapterRange : Prop :=
  ∀ (taps : List ℚ) (width : Nat),
    ((∀ t ∈ taps, t = 0) → adapt taps width = .error .degenerateFilter) ∧
    (1 ≤ width → (∃ t ∈ taps, t ≠ 0) → ∃ qs, adapt taps width = .ok qs ∧ qs.length = taps.length ∧
      (∀ q ∈ qs, |q| ≤ 2 ^ (width - 1) - 1 ∧ InRangeS q width ∧ q ≠ -(2 ^ (width - 1))) ∧
      ∀ k, k < taps.length → (∀ t ∈ taps, |t| ≤ |taps.getD k 0|) →
        elem qs k = if taps.getD k 0 < 0 then -(2 ^ (width - 1) - 1) else 2 ^ (width - 1) - 1)
end

