-- ==== Sys2Proof/Laws/Sequence.lean ====
section
/-! SUPPORT. Lemmas about sequences: element access, exact sums, the shift register, lanes. -/

namespace Sys2Proof

/-! ### Element access -/

@[simp] theorem elem_nil (i : Nat) : elem [] i = 0 := by simp [elem]

@[simp] theorem elem_cons_zero (v : Int) (s : List Int) : elem (v :: s) 0 = v := by simp [elem]

@[simp] theorem elem_cons_succ (v : Int) (s : List Int) (i : Nat) : elem (v :: s) (i + 1) = elem s i := by simp [elem]

theorem elem_of_length_le (s : List Int) (i : Nat) (h : s.length ≤ i) : elem s i = 0 := by
  simp [elem, List.getD_eq_getElem?_getD, List.getElem?_eq_none h]

theorem elem_eq_getElem (s : List Int) (i : Nat) (h : i < s.length) : elem s i = s[i] := by
  simp [elem, List.getD_eq_getElem?_getD, List.getElem?_eq_getElem h]

theorem elem_mem_or_zero (s : List Int) (i : Nat) : elem s i ∈ s ∨ elem s i = 0 := by
  by_cases h : i < s.length
  · exact .inl (elem_eq_getElem s i h ▸ List.getElem_mem h)
  · exact .inr (elem_of_length_le s i (not_lt.mp h))

@[simp] theorem elem_replicate_zero (n i : Nat) : elem (List.replicate n 0) i = 0 := by
  rcases elem_mem_or_zero (List.replicate n 0) i with h | h
  · exact List.eq_of_mem_replicate h
  · exact h

theorem elem_map_range (f : Nat → Int) (n i : Nat) :
    elem ((List.range n).map f) i = if i < n then f i else 0 := by
  by_cases h : i < n
  · rw [elem_eq_getElem _ _ (by simpa using h)]; simp [h]
  · rw [elem_of_length_le _ _ (by simpa using h)]; simp [h]

theorem elem_set (s : List Int) (i : Nat) (v : Int) (k : Nat) :
    elem (s.set i v) k = if k = i ∧ i < s.length then v else elem s k := by
  by_cases hk : k < s.length
  · rw [elem_eq_getElem _ _ (by simpa using hk), elem_eq_getElem _ _ hk, List.getElem_set]
    by_cases h : i = k
    · subst h; simp [hk]
    · simp [h, Ne.symm h]
  · rw [elem_of_length_le _ _ (by simpa using hk), elem_of_length_le _ _ (not_lt.mp hk)]
    split
    · omega
    · rfl

theorem elem_append (a b : List Int) (i : Nat) :
    elem (a ++ b) i = if i < a.length then elem a i else elem b (i - a.length) := by
  by_cases h : i < a.length
  · simp [elem, List.getD_eq_getElem?_getD, List.getElem?_append_left h, h]
  · simp [elem, List.getD_eq_getElem?_getD, List.getElem?_append_right (not_lt.mp h), h]

theorem elem_take (s : List Int) (n i : Nat) : elem (s.take n) i = if i < n then elem s i else 0 := by
  by_cases h : i < n
  · simp [elem, List.getD_eq_getElem?_getD, h]
  · rw [elem_of_length_le _ _ (by simp; omega)]; simp [h]

theorem ext_elem {a b : List Int} (hl : a.length = b.length) (h : ∀ i, i < a.length → elem a i = elem b i) : a = b := by
  apply List.ext_getElem hl
  intro i ha hb
  have := h i ha
  rwa [elem_eq_getElem _ _ ha, elem_eq_getElem _ _ hb] at this

@[simp] theorem elemZ_natCast (s : List Int) (i : Nat) : elemZ s (i : Int) = elem s i := by
  simp [elemZ]

theorem elemZ_of_neg (s : List Int) (i : Int) (h : i < 0) : elemZ s i = 0 := by simp [elemZ, h]

theorem elemZ_of_length_le (s : List Int) (i : Int) (h : (s.length : Int) ≤ i) : elemZ s i = 0 := by
  have hi : ¬ i < 0 := by omega
  simp only [elemZ, hi, if_false]
  exact elem_of_length_le _ _ (by omega)

@[simp] theorem elemZ_nil (i : Int) : elemZ [] i = 0 := by simp [elemZ]

theorem elemZ_mem_or_zero (s : List Int) (i : Int) : elemZ s i ∈ s ∨ elemZ s i = 0 := by
  unfold elemZ
  split
  · exact .inr rfl
  · exact elem_mem_or_zero s _

/-! ### Sums -/

@[simp] theorem sumTo_zero (f : Nat → Int) : sumTo f 0 = 0 := rfl

@[simp] theorem sumTo_succ (f : Nat → Int) (n : Nat) : sumTo f (n + 1) = sumTo f n + f n := rfl

theorem sumTo_eq_sum (f : Nat → Int) (n : Nat) : sumTo f n = ∑ j ∈ Finset.range n, f j := by
  induction n with
  | zero => rfl
  | succ n ih => rw [sumTo_succ, ih, Finset.sum_range_succ]

theorem sumTo_congr {f g : Nat → Int} {n : Nat} (h : ∀ j, j < n → f j = g j) : sumTo f n = sumTo g n := by
  induction n with
  | zero => rfl
  | succ n ih => rw [sumTo_succ, sumTo_succ, ih fun j hj => h j (by omega), h n (by omega)]

/-- Terms that are 0 from m on do not count. -/
theorem sumTo_of_zero_beyond {f : Nat → Int} {m n : Nat} (hmn : m ≤ n) (h : ∀ j, m ≤ j → j < n → f j = 0) :
    sumTo f n = sumTo f m := by
  induction n with
  | zero => rw [Nat.le_zero.mp hmn]
  | succ n ih =>
    by_cases hm : m = n + 1
    · rw [hm]
    · rw [sumTo_succ, h n (by omega) (by omega), Int.add_zero]
      exact ih (by omega) fun j hj hjn => h j hj (by omega)

theorem abs_sumTo_le {f : Nat → Int} {n : Nat} {B : Int} (h : ∀ j, j < n → |f j| ≤ B) : |sumTo f n| ≤ n * B := by
  induction n with
  | zero => simp
  | succ n ih =>
    have h1 := ih fun j hj => h j (by omega)
    have h2 := h n (by omega)
    have h3 := abs_add_le (sumTo f n) (f n)
    rw [sumTo_succ]; push_cast; linarith

/-! ### The shift register -/

@[simp] theorem length_shiftIn (v : Int) (s : List Int) : (shiftIn v s).length = s.length := by
  simp [shiftIn]

@[simp] theorem shiftIn_nil (v : Int) : shiftIn v [] = [] := rfl

theorem elem_shiftIn_zero (v : Int) (s : List Int) (h : 0 < s.length) : elem (shiftIn v s) 0 = v := by
  simp [shiftIn, elem_take, h]

theorem elem_shiftIn_succ (v : Int) (s : List Int) (j : Nat) (h : j + 1 < s.length) :
    elem (shiftIn v s) (j + 1) = elem s j := by
  simp [shiftIn, elem_take, h]

theorem shiftIn_eq_cons (v : Int) (s : List Int) (h : 0 < s.length) :
    shiftIn v s = v :: s.take (s.length - 1) := by
  obtain ⟨k, hk⟩ : ∃ k, s.length = k + 1 := ⟨s.length - 1, by omega⟩
  simp [shiftIn, hk]

theorem mem_shiftIn {v x : Int} {s : List Int} (h : x ∈ shiftIn v s) : x = v ∨ x ∈ s := by
  have := List.mem_of_mem_take h
  simpa using this

/-! ### Convolution and lanes -/

@[simp] theorem length_conv (h x : List Int) : (conv h x).length = x.length := by simp [conv]

theorem elem_conv (h x : List Int) (n : Nat) (hn : n < x.length) : elem (conv h x) n = convAt h x n := by
  simp [conv, elem_map_range, hn]

theorem convAt_eq_sum (h x : List Int) (n : Nat) :
    convAt h x n = ∑ k ∈ Finset.range h.length, elem h k * elemZ x ((n : Int) - k) := sumTo_eq_sum _ _

@[simp] theorem laneLength_zero_two (n : Nat) : laneLength n 0 2 = (n + 1) / 2 := by
  unfold laneLength; split <;> omega

@[simp] theorem laneLength_one_two (n : Nat) : laneLength n 1 2 = n / 2 := by
  unfold laneLength; split <;> omega

@[simp] theorem length_laneOf (s : List Int) (p L : Nat) : (laneOf s p L).length = laneLength s.length p L := by
  simp [laneOf]

theorem elem_laneOf (s : List Int) (p L j : Nat) :
    elem (laneOf s p L) j = if j < laneLength s.length p L then elem s (p + j * L) else 0 := by
  simp [laneOf, elem_map_range]

theorem elem_laneOf_zero (s : List Int) (j : Nat) : elem (laneOf s 0 2) j = elem s (2 * j) := by
  rw [elem_laneOf, laneLength_zero_two]
  split
  · congr 1; omega
  · exact (elem_of_length_le _ _ (by omega)).symm

theorem elem_laneOf_one (s : List Int) (j : Nat) : elem (laneOf s 1 2) j = elem s (2 * j + 1) := by
  rw [elem_laneOf, laneLength_one_two]
  split
  · congr 1; omega
  · exact (elem_of_length_le _ _ (by omega)).symm

end Sys2Proof
end

