-- ==== Sys2Proof/Laws/State.lean ====
section
/-! SUPPORT. For each named update of the state, one lemma per field: what the update leaves there. -/

namespace Sys2Proof.Machine

open Sys2Proof

/-! ### raised -/

@[simp] theorem State.raised_params (s : State) (e : Err) : (s.raised e).params = s.params := rfl
@[simp] theorem State.raised_mode (s : State) (e : Err) : (s.raised e).mode = s.mode := rfl
@[simp] theorem State.raised_ntaps (s : State) (e : Err) : (s.raised e).ntaps = s.ntaps := rfl
@[simp] theorem State.raised_coef (s : State) (e : Err) : (s.raised e).coef = s.coef := rfl
@[simp] theorem State.raised_cptr (s : State) (e : Err) : (s.raised e).cptr = s.cptr := rfl
@[simp] theorem State.raised_h0 (s : State) (e : Err) : (s.raised e).h0 = s.h0 := rfl
@[simp] theorem State.raised_h1 (s : State) (e : Err) : (s.raised e).h1 = s.h1 := rfl
@[simp] theorem State.raised_hs (s : State) (e : Err) : (s.raised e).hs = s.hs := rfl
@[simp] theorem State.raised_xh0 (s : State) (e : Err) : (s.raised e).xh0 = s.xh0 := rfl
@[simp] theorem State.raised_xh1 (s : State) (e : Err) : (s.raised e).xh1 = s.xh1 := rfl
@[simp] theorem State.raised_xhs (s : State) (e : Err) : (s.raised e).xhs = s.xhs := rfl
@[simp] theorem State.raised_align (s : State) (e : Err) : (s.raised e).align = s.align := rfl
@[simp] theorem State.raised_a0hold (s : State) (e : Err) : (s.raised e).a0hold = s.a0hold := rfl
@[simp] theorem State.raised_phase (s : State) (e : Err) : (s.raised e).phase = s.phase := rfl
@[simp] theorem State.raised_blkRemain (s : State) (e : Err) : (s.raised e).blkRemain = s.blkRemain := rfl
@[simp] theorem State.raised_scount (s : State) (e : Err) : (s.raised e).scount = s.scount := rfl
@[simp] theorem State.raised_lastErr (s : State) (e : Err) : (s.raised e).lastErr = e.code := rfl
@[simp] theorem State.raised_rsp (s : State) (e : Err) : (s.raised e).rsp = some { err := e.code, data := 0 } := rfl
@[simp] theorem State.raised_host (s : State) (e : Err) : (s.raised e).host = s.host := rfl

/-! ### clearFs -/

@[simp] theorem State.clearFs_params (s : State) : (s.clearFs).params = s.params := rfl
@[simp] theorem State.clearFs_mode (s : State) : (s.clearFs).mode = s.mode := rfl
@[simp] theorem State.clearFs_ntaps (s : State) : (s.clearFs).ntaps = s.ntaps := rfl
@[simp] theorem State.clearFs_coef (s : State) : (s.clearFs).coef = s.coef := rfl
@[simp] theorem State.clearFs_cptr (s : State) : (s.clearFs).cptr = s.cptr := rfl
@[simp] theorem State.clearFs_h0 (s : State) : (s.clearFs).h0 = s.h0 := rfl
@[simp] theorem State.clearFs_h1 (s : State) : (s.clearFs).h1 = s.h1 := rfl
@[simp] theorem State.clearFs_hs (s : State) : (s.clearFs).hs = s.hs := rfl
@[simp] theorem State.clearFs_xh0 (s : State) : (s.clearFs).xh0 = List.replicate s.params.k0 0 := rfl
@[simp] theorem State.clearFs_xh1 (s : State) : (s.clearFs).xh1 = List.replicate s.params.k1 0 := rfl
@[simp] theorem State.clearFs_xhs (s : State) : (s.clearFs).xhs = List.replicate s.params.k0 0 := rfl
@[simp] theorem State.clearFs_align (s : State) : (s.clearFs).align = 0 := rfl
@[simp] theorem State.clearFs_a0hold (s : State) : (s.clearFs).a0hold = 0 := rfl
@[simp] theorem State.clearFs_phase (s : State) : (s.clearFs).phase = .lane0 := rfl
@[simp] theorem State.clearFs_blkRemain (s : State) : (s.clearFs).blkRemain = 0 := rfl
@[simp] theorem State.clearFs_scount (s : State) : (s.clearFs).scount = 0 := rfl
@[simp] theorem State.clearFs_lastErr (s : State) : (s.clearFs).lastErr = s.lastErr := rfl
@[simp] theorem State.clearFs_rsp (s : State) : (s.clearFs).rsp = s.rsp := rfl
@[simp] theorem State.clearFs_host (s : State) : (s.clearFs).host = s.host := rfl

/-! ### deriveLaneSet -/

@[simp] theorem State.deriveLaneSet_params (s : State) : (s.deriveLaneSet).params = s.params := rfl
@[simp] theorem State.deriveLaneSet_mode (s : State) : (s.deriveLaneSet).mode = s.mode := rfl
@[simp] theorem State.deriveLaneSet_ntaps (s : State) : (s.deriveLaneSet).ntaps = s.ntaps := rfl
@[simp] theorem State.deriveLaneSet_coef (s : State) : (s.deriveLaneSet).coef = s.coef := rfl
@[simp] theorem State.deriveLaneSet_cptr (s : State) : (s.deriveLaneSet).cptr = s.cptr := rfl
@[simp] theorem State.deriveLaneSet_h0 (s : State) : (s.deriveLaneSet).h0 = lane0Taps s.params s.ntaps s.coef := rfl
@[simp] theorem State.deriveLaneSet_h1 (s : State) : (s.deriveLaneSet).h1 = lane1Taps s.params s.ntaps s.coef := rfl
@[simp] theorem State.deriveLaneSet_hs (s : State) : (s.deriveLaneSet).hs = sumTaps s.params (lane0Taps s.params s.ntaps s.coef) (lane1Taps s.params s.ntaps s.coef) := rfl
@[simp] theorem State.deriveLaneSet_xh0 (s : State) : (s.deriveLaneSet).xh0 = s.xh0 := rfl
@[simp] theorem State.deriveLaneSet_xh1 (s : State) : (s.deriveLaneSet).xh1 = s.xh1 := rfl
@[simp] theorem State.deriveLaneSet_xhs (s : State) : (s.deriveLaneSet).xhs = s.xhs := rfl
@[simp] theorem State.deriveLaneSet_align (s : State) : (s.deriveLaneSet).align = s.align := rfl
@[simp] theorem State.deriveLaneSet_a0hold (s : State) : (s.deriveLaneSet).a0hold = s.a0hold := rfl
@[simp] theorem State.deriveLaneSet_phase (s : State) : (s.deriveLaneSet).phase = s.phase := rfl
@[simp] theorem State.deriveLaneSet_blkRemain (s : State) : (s.deriveLaneSet).blkRemain = s.blkRemain := rfl
@[simp] theorem State.deriveLaneSet_scount (s : State) : (s.deriveLaneSet).scount = s.scount := rfl
@[simp] theorem State.deriveLaneSet_lastErr (s : State) : (s.deriveLaneSet).lastErr = s.lastErr := rfl
@[simp] theorem State.deriveLaneSet_rsp (s : State) : (s.deriveLaneSet).rsp = s.rsp := rfl
@[simp] theorem State.deriveLaneSet_host (s : State) : (s.deriveLaneSet).host = s.host := rfl

/-! ### step0 -/

@[simp] theorem State.step0_params (s : State) (x : Int) : (s.step0 x).params = s.params := rfl
@[simp] theorem State.step0_mode (s : State) (x : Int) : (s.step0 x).mode = s.mode := rfl
@[simp] theorem State.step0_ntaps (s : State) (x : Int) : (s.step0 x).ntaps = s.ntaps := rfl
@[simp] theorem State.step0_coef (s : State) (x : Int) : (s.step0 x).coef = s.coef := rfl
@[simp] theorem State.step0_cptr (s : State) (x : Int) : (s.step0 x).cptr = s.cptr := rfl
@[simp] theorem State.step0_h0 (s : State) (x : Int) : (s.step0 x).h0 = s.h0 := rfl
@[simp] theorem State.step0_h1 (s : State) (x : Int) : (s.step0 x).h1 = s.h1 := rfl
@[simp] theorem State.step0_hs (s : State) (x : Int) : (s.step0 x).hs = s.hs := rfl
@[simp] theorem State.step0_xh0 (s : State) (x : Int) : (s.step0 x).xh0 = shiftIn x s.xh0 := rfl
@[simp] theorem State.step0_xh1 (s : State) (x : Int) : (s.step0 x).xh1 = s.xh1 := rfl
@[simp] theorem State.step0_xhs (s : State) (x : Int) : (s.step0 x).xhs = s.xhs := rfl
@[simp] theorem State.step0_align (s : State) (x : Int) : (s.step0 x).align = s.align := rfl
@[simp] theorem State.step0_a0hold (s : State) (x : Int) : (s.step0 x).a0hold = mac0 s (shiftIn x s.xh0) := rfl
@[simp] theorem State.step0_phase (s : State) (x : Int) : (s.step0 x).phase = s.phase := rfl
@[simp] theorem State.step0_blkRemain (s : State) (x : Int) : (s.step0 x).blkRemain = s.blkRemain := rfl
@[simp] theorem State.step0_scount (s : State) (x : Int) : (s.step0 x).scount = s.scount := rfl
@[simp] theorem State.step0_lastErr (s : State) (x : Int) : (s.step0 x).lastErr = s.lastErr := rfl
@[simp] theorem State.step0_rsp (s : State) (x : Int) : (s.step0 x).rsp = s.rsp := rfl
@[simp] theorem State.step0_host (s : State) (x : Int) : (s.step0 x).host = s.host := rfl

/-! ### step1 -/

@[simp] theorem State.step1_params (s : State) (x : Int) : (s.step1 x).params = s.params := rfl
@[simp] theorem State.step1_mode (s : State) (x : Int) : (s.step1 x).mode = s.mode := rfl
@[simp] theorem State.step1_ntaps (s : State) (x : Int) : (s.step1 x).ntaps = s.ntaps := rfl
@[simp] theorem State.step1_coef (s : State) (x : Int) : (s.step1 x).coef = s.coef := rfl
@[simp] theorem State.step1_cptr (s : State) (x : Int) : (s.step1 x).cptr = s.cptr := rfl
@[simp] theorem State.step1_h0 (s : State) (x : Int) : (s.step1 x).h0 = s.h0 := rfl
@[simp] theorem State.step1_h1 (s : State) (x : Int) : (s.step1 x).h1 = s.h1 := rfl
@[simp] theorem State.step1_hs (s : State) (x : Int) : (s.step1 x).hs = s.hs := rfl
@[simp] theorem State.step1_xh0 (s : State) (x : Int) : (s.step1 x).xh0 = s.xh0 := rfl
@[simp] theorem State.step1_xh1 (s : State) (x : Int) : (s.step1 x).xh1 = shiftIn x s.xh1 := rfl
@[simp] theorem State.step1_xhs (s : State) (x : Int) : (s.step1 x).xhs = shiftIn (preAdd s x) s.xhs := rfl
@[simp] theorem State.step1_align (s : State) (x : Int) : (s.step1 x).align = mac1 s (shiftIn x s.xh1) := rfl
@[simp] theorem State.step1_a0hold (s : State) (x : Int) : (s.step1 x).a0hold = s.a0hold := rfl
@[simp] theorem State.step1_phase (s : State) (x : Int) : (s.step1 x).phase = s.phase := rfl
@[simp] theorem State.step1_blkRemain (s : State) (x : Int) : (s.step1 x).blkRemain = s.blkRemain := rfl
@[simp] theorem State.step1_scount (s : State) (x : Int) : (s.step1 x).scount = s.scount := rfl
@[simp] theorem State.step1_lastErr (s : State) (x : Int) : (s.step1 x).lastErr = s.lastErr := rfl
@[simp] theorem State.step1_rsp (s : State) (x : Int) : (s.step1 x).rsp = s.rsp := rfl
@[simp] theorem State.step1_host (s : State) (x : Int) : (s.step1 x).host = s.host := rfl

/-! ### advance -/

@[simp] theorem State.advance_params (s : State) : (s.advance).params = s.params := rfl
@[simp] theorem State.advance_mode (s : State) : (s.advance).mode = s.mode := rfl
@[simp] theorem State.advance_ntaps (s : State) : (s.advance).ntaps = s.ntaps := rfl
@[simp] theorem State.advance_coef (s : State) : (s.advance).coef = s.coef := rfl
@[simp] theorem State.advance_cptr (s : State) : (s.advance).cptr = s.cptr := rfl
@[simp] theorem State.advance_h0 (s : State) : (s.advance).h0 = s.h0 := rfl
@[simp] theorem State.advance_h1 (s : State) : (s.advance).h1 = s.h1 := rfl
@[simp] theorem State.advance_hs (s : State) : (s.advance).hs = s.hs := rfl
@[simp] theorem State.advance_xh0 (s : State) : (s.advance).xh0 = s.xh0 := rfl
@[simp] theorem State.advance_xh1 (s : State) : (s.advance).xh1 = s.xh1 := rfl
@[simp] theorem State.advance_xhs (s : State) : (s.advance).xhs = s.xhs := rfl
@[simp] theorem State.advance_align (s : State) : (s.advance).align = s.align := rfl
@[simp] theorem State.advance_a0hold (s : State) : (s.advance).a0hold = s.a0hold := rfl
@[simp] theorem State.advance_phase (s : State) : (s.advance).phase = s.phase.next := rfl
@[simp] theorem State.advance_blkRemain (s : State) : (s.advance).blkRemain = s.blkRemain - 1 := rfl
@[simp] theorem State.advance_scount (s : State) : (s.advance).scount = s.scount + 1 := rfl
@[simp] theorem State.advance_lastErr (s : State) : (s.advance).lastErr = s.lastErr := rfl
@[simp] theorem State.advance_rsp (s : State) : (s.advance).rsp = s.rsp := rfl
@[simp] theorem State.advance_host (s : State) : (s.advance).host = s.host := rfl

/-! ### present -/

@[simp] theorem State.present_params (s : State) (w : Word) : (s.present w).params = s.params := rfl
@[simp] theorem State.present_mode (s : State) (w : Word) : (s.present w).mode = s.mode := rfl
@[simp] theorem State.present_ntaps (s : State) (w : Word) : (s.present w).ntaps = s.ntaps := rfl
@[simp] theorem State.present_coef (s : State) (w : Word) : (s.present w).coef = s.coef := rfl
@[simp] theorem State.present_cptr (s : State) (w : Word) : (s.present w).cptr = s.cptr := rfl
@[simp] theorem State.present_h0 (s : State) (w : Word) : (s.present w).h0 = s.h0 := rfl
@[simp] theorem State.present_h1 (s : State) (w : Word) : (s.present w).h1 = s.h1 := rfl
@[simp] theorem State.present_hs (s : State) (w : Word) : (s.present w).hs = s.hs := rfl
@[simp] theorem State.present_xh0 (s : State) (w : Word) : (s.present w).xh0 = s.xh0 := rfl
@[simp] theorem State.present_xh1 (s : State) (w : Word) : (s.present w).xh1 = s.xh1 := rfl
@[simp] theorem State.present_xhs (s : State) (w : Word) : (s.present w).xhs = s.xhs := rfl
@[simp] theorem State.present_align (s : State) (w : Word) : (s.present w).align = s.align := rfl
@[simp] theorem State.present_a0hold (s : State) (w : Word) : (s.present w).a0hold = s.a0hold := rfl
@[simp] theorem State.present_phase (s : State) (w : Word) : (s.present w).phase = s.phase := rfl
@[simp] theorem State.present_blkRemain (s : State) (w : Word) : (s.present w).blkRemain = s.blkRemain := rfl
@[simp] theorem State.present_scount (s : State) (w : Word) : (s.present w).scount = s.scount := rfl
@[simp] theorem State.present_lastErr (s : State) (w : Word) : (s.present w).lastErr = s.lastErr := rfl
@[simp] theorem State.present_rsp (s : State) (w : Word) : (s.present w).rsp = none := rfl
@[simp] theorem State.present_host (s : State) (w : Word) : (s.present w).host = commandEdge w :: s.host := rfl

/-! ### laneStep -/

@[simp] theorem State.laneStep_params (s : State) (x : Int) : (s.laneStep x).params = s.params := by
  unfold State.laneStep; split <;> rfl
@[simp] theorem State.laneStep_mode (s : State) (x : Int) : (s.laneStep x).mode = s.mode := by
  unfold State.laneStep; split <;> rfl
@[simp] theorem State.laneStep_ntaps (s : State) (x : Int) : (s.laneStep x).ntaps = s.ntaps := by
  unfold State.laneStep; split <;> rfl
@[simp] theorem State.laneStep_coef (s : State) (x : Int) : (s.laneStep x).coef = s.coef := by
  unfold State.laneStep; split <;> rfl
@[simp] theorem State.laneStep_cptr (s : State) (x : Int) : (s.laneStep x).cptr = s.cptr := by
  unfold State.laneStep; split <;> rfl
@[simp] theorem State.laneStep_h0 (s : State) (x : Int) : (s.laneStep x).h0 = s.h0 := by
  unfold State.laneStep; split <;> rfl
@[simp] theorem State.laneStep_h1 (s : State) (x : Int) : (s.laneStep x).h1 = s.h1 := by
  unfold State.laneStep; split <;> rfl
@[simp] theorem State.laneStep_hs (s : State) (x : Int) : (s.laneStep x).hs = s.hs := by
  unfold State.laneStep; split <;> rfl
@[simp] theorem State.laneStep_phase (s : State) (x : Int) : (s.laneStep x).phase = s.phase := by
  unfold State.laneStep; split <;> rfl
@[simp] theorem State.laneStep_blkRemain (s : State) (x : Int) : (s.laneStep x).blkRemain = s.blkRemain := by
  unfold State.laneStep; split <;> rfl
@[simp] theorem State.laneStep_scount (s : State) (x : Int) : (s.laneStep x).scount = s.scount := by
  unfold State.laneStep; split <;> rfl
@[simp] theorem State.laneStep_lastErr (s : State) (x : Int) : (s.laneStep x).lastErr = s.lastErr := by
  unfold State.laneStep; split <;> rfl
@[simp] theorem State.laneStep_rsp (s : State) (x : Int) : (s.laneStep x).rsp = s.rsp := by
  unfold State.laneStep; split <;> rfl
@[simp] theorem State.laneStep_host (s : State) (x : Int) : (s.laneStep x).host = s.host := by
  unfold State.laneStep; split <;> rfl

theorem State.laneStep_lane0 (s : State) (x : Int) (h : s.phase = .lane0) : s.laneStep x = s.step0 x := by
  simp only [State.laneStep, h]

theorem State.laneStep_lane1 (s : State) (x : Int) (h : s.phase = .lane1) : s.laneStep x = s.step1 x := by
  simp only [State.laneStep, h]

/-! ### reset -/

@[simp] theorem State.atReset_params (p : Params) : (State.atReset p).params = p := rfl
@[simp] theorem State.atReset_mode (p : Params) : (State.atReset p).mode = .config := rfl
@[simp] theorem State.atReset_ntaps (p : Params) : (State.atReset p).ntaps = 0 := rfl
@[simp] theorem State.atReset_coef (p : Params) : (State.atReset p).coef = List.replicate p.nmax 0 := rfl
@[simp] theorem State.atReset_cptr (p : Params) : (State.atReset p).cptr = 0 := rfl
@[simp] theorem State.atReset_h0 (p : Params) : (State.atReset p).h0 = List.replicate p.k0 0 := rfl
@[simp] theorem State.atReset_h1 (p : Params) : (State.atReset p).h1 = List.replicate p.k1 0 := rfl
@[simp] theorem State.atReset_hs (p : Params) : (State.atReset p).hs = List.replicate p.k0 0 := rfl
@[simp] theorem State.atReset_xh0 (p : Params) : (State.atReset p).xh0 = List.replicate p.k0 0 := rfl
@[simp] theorem State.atReset_xh1 (p : Params) : (State.atReset p).xh1 = List.replicate p.k1 0 := rfl
@[simp] theorem State.atReset_xhs (p : Params) : (State.atReset p).xhs = List.replicate p.k0 0 := rfl
@[simp] theorem State.atReset_align (p : Params) : (State.atReset p).align = 0 := rfl
@[simp] theorem State.atReset_a0hold (p : Params) : (State.atReset p).a0hold = 0 := rfl
@[simp] theorem State.atReset_phase (p : Params) : (State.atReset p).phase = .lane0 := rfl
@[simp] theorem State.atReset_blkRemain (p : Params) : (State.atReset p).blkRemain = 0 := rfl
@[simp] theorem State.atReset_scount (p : Params) : (State.atReset p).scount = 0 := rfl
@[simp] theorem State.atReset_lastErr (p : Params) : (State.atReset p).lastErr = 0 := rfl
@[simp] theorem State.atReset_rsp (p : Params) : (State.atReset p).rsp = none := rfl
@[simp] theorem State.atReset_host (p : Params) : (State.atReset p).host = [] := rfl

@[simp] theorem State.resetEdge_params (s : State) : s.resetEdge.params = (State.atReset s.params).params := rfl
@[simp] theorem State.resetEdge_mode (s : State) : s.resetEdge.mode = (State.atReset s.params).mode := rfl
@[simp] theorem State.resetEdge_ntaps (s : State) : s.resetEdge.ntaps = (State.atReset s.params).ntaps := rfl
@[simp] theorem State.resetEdge_coef (s : State) : s.resetEdge.coef = (State.atReset s.params).coef := rfl
@[simp] theorem State.resetEdge_cptr (s : State) : s.resetEdge.cptr = (State.atReset s.params).cptr := rfl
@[simp] theorem State.resetEdge_h0 (s : State) : s.resetEdge.h0 = (State.atReset s.params).h0 := rfl
@[simp] theorem State.resetEdge_h1 (s : State) : s.resetEdge.h1 = (State.atReset s.params).h1 := rfl
@[simp] theorem State.resetEdge_hs (s : State) : s.resetEdge.hs = (State.atReset s.params).hs := rfl
@[simp] theorem State.resetEdge_xh0 (s : State) : s.resetEdge.xh0 = (State.atReset s.params).xh0 := rfl
@[simp] theorem State.resetEdge_xh1 (s : State) : s.resetEdge.xh1 = (State.atReset s.params).xh1 := rfl
@[simp] theorem State.resetEdge_xhs (s : State) : s.resetEdge.xhs = (State.atReset s.params).xhs := rfl
@[simp] theorem State.resetEdge_align (s : State) : s.resetEdge.align = (State.atReset s.params).align := rfl
@[simp] theorem State.resetEdge_a0hold (s : State) : s.resetEdge.a0hold = (State.atReset s.params).a0hold := rfl
@[simp] theorem State.resetEdge_phase (s : State) : s.resetEdge.phase = (State.atReset s.params).phase := rfl
@[simp] theorem State.resetEdge_blkRemain (s : State) : s.resetEdge.blkRemain = (State.atReset s.params).blkRemain := rfl
@[simp] theorem State.resetEdge_scount (s : State) : s.resetEdge.scount = (State.atReset s.params).scount := rfl
@[simp] theorem State.resetEdge_lastErr (s : State) : s.resetEdge.lastErr = (State.atReset s.params).lastErr := rfl
@[simp] theorem State.resetEdge_rsp (s : State) : s.resetEdge.rsp = (State.atReset s.params).rsp := rfl
@[simp] theorem State.resetEdge_host (s : State) : s.resetEdge.host = s.host := rfl

end Sys2Proof.Machine
end

