-- ==== Sys2Proof/Laws/Widths.lean ====
section
/-! SUPPORT. Lemmas about the derived sizes and widths, the number formats and the error codes. -/

namespace Sys2Proof

/-- `clog2 n` is large enough (00_scope.md R13). -/
theorem le_two_pow_clog2 (n : Nat) : n ≤ 2 ^ clog2 n := by
  unfold clog2
  split
  · simpa using ‹n ≤ 1›
  · have := Nat.lt_log2_self (n := n - 1)
    omega

/-- `clog2 n` is the least such exponent (00_scope.md R13). -/
theorem clog2_le {n c : Nat} (h : n ≤ 2 ^ c) : clog2 n ≤ c := by
  unfold clog2
  split
  · omega
  · have h1 : n - 1 ≠ 0 := by omega
    have h2 := (Nat.log2_lt h1 (k := c)).mpr (by omega)
    omega

theorem Params.k0_add_k1 (p : Params) : p.k0 + p.k1 = p.nmax := by unfold Params.k0 Params.k1; omega

theorem Params.k1_le_k0 (p : Params) : p.k1 ≤ p.k0 := by unfold Params.k0 Params.k1; omega

theorem Params.k0_pos {p : Params} (h : p.Legal) : 0 < p.k0 := by unfold Params.k0; have := h.2.1; omega

theorem Params.thirtyTwo_le_wrsp (p : Params) : 32 ≤ p.wrsp := le_max_right _ _

theorem Params.wy_le_wrsp (p : Params) : p.wy ≤ p.wrsp := le_max_left _ _

/-- 42_ffa_datapath.md R501: the array holds 2·K0 + K1 multipliers. -/
theorem Params.multipliers_eq (p : Params) : p.multipliers = 2 * p.k0 + p.k1 := by unfold Params.multipliers; omega

/-- 42_ffa_datapath.md R501: N + ceil(N/2) multipliers are active. -/
theorem activeMultipliers_eq (n : Nat) : activeMultipliers n = n + (n + 1) / 2 := by unfold activeMultipliers; omega

end Sys2Proof

namespace Sys2Proof.Machine

open Sys2Proof

theorem signedPattern_lt (w : Nat) (d : Int) : signedPattern w d < 2 ^ w := by
  have h1 : (0 : Int) < 2 ^ w := by positivity
  have h2 := Int.emod_lt_of_pos d h1
  have h3 := Int.emod_nonneg d (ne_of_gt h1)
  unfold signedPattern
  zify
  rw [Int.toNat_of_nonneg h3]
  exact h2

theorem unsignedPattern_lt (w d : Nat) : unsignedPattern w d < 2 ^ w := Nat.mod_lt _ (by positivity)

theorem unsignedPattern_of_lt {w d : Nat} (h : d < 2 ^ w) : unsignedPattern w d = d := Nat.mod_eq_of_lt h

/-- An integer that fits W bits is what its pattern denotes (00_scope.md R12). -/
theorem sext_signedPattern {w : Nat} (hw : 0 < w) {d : Int} (h : InRangeS d w) : sext w (signedPattern w d) = d := by
  obtain ⟨k, rfl⟩ : ∃ k, w = k + 1 := ⟨w - 1, by omega⟩
  obtain ⟨h1, h2⟩ := h
  simp only [Nat.add_sub_cancel] at h1 h2
  have hp : (2 : Int) ^ (k + 1) = 2 * 2 ^ k := by ring
  have hpos : (0 : Int) < 2 ^ k := by positivity
  have hcast : ((2 ^ k : Nat) : Int) = 2 ^ k := by push_cast; rfl
  unfold sext signedPattern
  rw [hp]
  simp only [Nat.add_sub_cancel]
  by_cases hd : 0 ≤ d
  · have : d % (2 * 2 ^ k) = d := Int.emod_eq_of_lt hd (by linarith)
    rw [this, if_pos (by zify; rw [Int.toNat_of_nonneg hd]; linarith), Int.toNat_of_nonneg hd]
  · have : d % (2 * 2 ^ k) = d + 2 * 2 ^ k := by
      rw [← Int.add_mul_emod_self_left d (2 * 2 ^ k) 1, mul_one]
      exact Int.emod_eq_of_lt (by linarith) (by linarith)
    have hnn : 0 ≤ d + 2 * 2 ^ k := by linarith
    rw [this, if_neg (by zify; rw [Int.toNat_of_nonneg hnn]; linarith), Int.toNat_of_nonneg hnn]
    ring

theorem inRangeS_mono {v : Int} {w w' : Nat} (hw : w ≤ w') (h : InRangeS v w) : InRangeS v w' := by
  have : (2 : Int) ^ (w - 1) ≤ 2 ^ (w' - 1) := pow_le_pow_right₀ (by norm_num) (by omega)
  exact ⟨by linarith [h.1], by linarith [h.2]⟩

theorem inRangeS_zero (w : Nat) : InRangeS 0 w := by
  have : (0 : Int) < 2 ^ (w - 1) := by positivity
  exact ⟨by linarith, by omega⟩

theorem abs_le_of_inRangeS {v : Int} {w : Nat} (h : InRangeS v w) : |v| ≤ 2 ^ (w - 1) := by
  rw [abs_le]; exact ⟨h.1, by linarith [h.2]⟩

theorem Err.code_ne_zero (e : Err) : e.code ≠ 0 := by cases e <;> decide

theorem Err.code_injective {e e' : Err} (h : e.code = e'.code) : e = e' := by
  cases e <;> cases e' <;> first | rfl | exact absurd h (by decide)

@[simp] theorem Lane.next_next (l : Lane) : l.next.next = l := by cases l <;> rfl

theorem Lane.bit_next (l : Lane) : l.next.bit = 1 - l.bit := by cases l <;> rfl

theorem Lane.bit_lt_two (l : Lane) : l.bit < 2 := by cases l <;> decide

end Sys2Proof.Machine
end

