-- ==== Sys2Proof/Laws/Ops.lean ====
section
/-! SUPPORT. For each shared operation, what it can do, said once: the provers cite these and do not unfold the operations. -/

namespace Sys2Proof.Machine

open Sys2Proof

/-! ### Answering and raising -/

theorem respond_eq (d : Nat) (s : State) : respond d s = .next { s with rsp := some { err := 0, data := d } } := rfl

theorem respond_eq_next {d : Nat} {s t : State} :
    respond d s = .next t ↔ t = { s with rsp := some { err := 0, data := d } } := by
  simp [respond, codeOK, eq_comm]

theorem raise_eq (e : Err) (s : State) : raise e s = .next (s.raised e) := rfl

theorem raise_eq_next {e : Err} {s t : State} : raise e s = .next t ↔ t = s.raised e := by
  simp [raise, eq_comm]

/-! ### The check order -/

@[simp] theorem firstError_nil : firstError [] = none := rfl

@[simp] theorem firstError_cons (b : Bool) (e : Err) (rest : List (Bool × Err)) :
    firstError ((b, e) :: rest) = if b then some e else firstError rest := by
  cases b <;> rfl

theorem guarded_of_error {checks : List (Bool × Err)} {e : Err} (s : State) (effect : Result)
    (h : firstError checks = some e) : guarded checks s effect = .next (s.raised e) := by
  simp only [guarded, h, raise_eq]

theorem guarded_of_none {checks : List (Bool × Err)} (s : State) (effect : Result)
    (h : firstError checks = none) : guarded checks s effect = effect := by
  simp only [guarded, h]

/-- Taking one check off the front of a command's checks. -/
theorem guarded_cons (p : Prop) [Decidable p] (e : Err) (rest : List (Bool × Err)) (s : State) (effect : Result) :
    guarded ((decide p, e) :: rest) s effect = if p then .next (s.raised e) else guarded rest s effect := by
  by_cases hp : p <;> simp [guarded, hp, raise_eq]

theorem guarded_nil (s : State) (effect : Result) : guarded [] s effect = effect := rfl

/-- A guarded command that answers t either raised the first error of its checks or took its effect. -/
theorem guarded_eq_next {checks : List (Bool × Err)} {s t : State} {effect : Result}
    (h : guarded checks s effect = .next t) :
    (∃ e, firstError checks = some e ∧ t = s.raised e) ∨ (firstError checks = none ∧ effect = .next t) := by
  cases hf : firstError checks with
  | some e => exact .inl ⟨e, rfl, raise_eq_next.mp (by simpa only [guarded, hf] using h)⟩
  | none => exact .inr ⟨rfl, by simpa only [guarded, hf] using h⟩

/-! ### The LaneSet -/

@[simp] theorem length_lane0Taps (p : Params) (n : Nat) (coef : List Int) : (lane0Taps p n coef).length = p.k0 := by
  simp [lane0Taps]

@[simp] theorem length_lane1Taps (p : Params) (n : Nat) (coef : List Int) : (lane1Taps p n coef).length = p.k1 := by
  simp [lane1Taps]

@[simp] theorem length_sumTaps (p : Params) (h0 h1 : List Int) : (sumTaps p h0 h1).length = p.k0 := by
  simp [sumTaps]

theorem elem_lane0Taps (p : Params) (n : Nat) (coef : List Int) (j : Nat) :
    elem (lane0Taps p n coef) j = if j < p.k0 then (if j < (n + 1) / 2 then elem coef (2 * j) else 0) else 0 := by
  simp [lane0Taps, elem_map_range]

theorem elem_lane1Taps (p : Params) (n : Nat) (coef : List Int) (j : Nat) :
    elem (lane1Taps p n coef) j = if j < p.k1 then (if j < n / 2 then elem coef (2 * j + 1) else 0) else 0 := by
  simp [lane1Taps, elem_map_range]

theorem elem_sumTaps (p : Params) (h0 h1 : List Int) (j : Nat) :
    elem (sumTaps p h0 h1) j = if j < p.k0 then elem h0 j + (if j < p.k1 then elem h1 j else 0) else 0 := by
  simp [sumTaps, elem_map_range]

/-! ### The MAC units -/

theorem mac_eq_sum (k : Nat) (taps hist : List Int) :
    mac k taps hist = ∑ j ∈ Finset.range k, elem taps j * elem hist j := sumTo_eq_sum _ _

/-- A MAC unit's result is bounded by its length times the bounds of its two operands. -/
theorem abs_mac_le {k : Nat} {taps hist : List Int} {A B : Int} (hA : 0 ≤ A) (hB : 0 ≤ B)
    (ht : ∀ c ∈ taps, |c| ≤ A) (hh : ∀ x ∈ hist, |x| ≤ B) : |mac k taps hist| ≤ k * (A * B) := by
  refine abs_sumTo_le fun j _ => ?_
  have h1 : |elem taps j| ≤ A := by
    rcases elem_mem_or_zero taps j with h | h
    · exact ht _ h
    · rw [h]; simpa using hA
  have h2 : |elem hist j| ≤ B := by
    rcases elem_mem_or_zero hist j with h | h
    · exact hh _ h
    · rw [h]; simpa using hB
  rw [abs_mul]
  exact mul_le_mul h1 h2 (abs_nonneg _) hA

/-! ### The lane steps -/

theorem laneOutput_lane0 {s : State} (x : Int) (h : s.phase = .lane0) : laneOutput s x = output0 s x := by
  simp only [laneOutput, h]

theorem laneOutput_lane1 {s : State} (x : Int) (h : s.phase = .lane1) : laneOutput s x = output1 s x := by
  simp only [laneOutput, h]

end Sys2Proof.Machine
end

