-- ==== Sys2Proof/Laws/Exec.lean ====
section
/-! SUPPORT. One equation per command: everything it can do, as the chain of its checks and its effect. Later proofs split these
instead of unfolding the meanings. -/

namespace Sys2Proof.Machine

open Sys2Proof

theorem exec_nop (s : State) : exec .nop s = .next { s with rsp := some { err := 0, data := 0 } } := rfl

theorem exec_setn (n : Nat) (s : State) : exec (.setn n) s =
    if s.mode ≠ .config then .next (s.raised .mode)
    else if n < 1 ∨ s.params.nmax < n then .next (s.raised .arg)
    else .next { s with
      ntaps := n, cptr := 0, coef := List.replicate s.params.nmax 0, rsp := some { err := 0, data := 0 } } := by
  simp only [exec, execSetn, notIn, guarded_cons, guarded_nil, respond_eq]

theorem exec_ldc (c : Int) (s : State) : exec (.ldc c) s =
    if s.mode ≠ .config then .next (s.raised .mode)
    else if s.cptr = s.ntaps then .next (s.raised .coefFull)
    else if ¬ InRangeS c s.params.wc then .next (s.raised .arg)
    else .next { s with
      coef := s.coef.set s.cptr c, cptr := s.cptr + 1, rsp := some { err := 0, data := 0 } } := by
  simp only [exec, execLdc, notIn, guarded_cons, guarded_nil, respond_eq]

theorem exec_setl (l : Nat) (s : State) : exec (.setl l) s =
    if s.mode ≠ .config then .next (s.raised .mode)
    else if l ≠ 2 then .next (s.raised .laneCount)
    else .next { s with rsp := some { err := 0, data := 0 } } := by
  simp only [exec, execSetl, notIn, guarded_cons, guarded_nil, respond_eq]

theorem exec_start (s : State) : exec .start s =
    if s.mode ≠ .config then .next (s.raised .mode)
    else if s.ntaps = 0 ∨ s.cptr ≠ s.ntaps then .next (s.raised .coefIncomplete)
    else .next { s.deriveLaneSet.clearFs with mode := .run, rsp := some { err := 0, data := 0 } } := by
  simp only [exec, execStart, notIn, guarded_cons, guarded_nil, respond_eq]

theorem exec_stop (s : State) : exec .stop s =
    if s.mode ≠ .run then .next (s.raised .mode)
    else if s.blkRemain ≠ 0 then .next (s.raised .busy)
    else .next { s.clearFs with mode := .config, rsp := some { err := 0, data := 0 } } := by
  simp only [exec, execStop, notIn, guarded_cons, guarded_nil, respond_eq]

theorem exec_init (s : State) : exec .init s =
    if s.mode ≠ .run then .next (s.raised .mode)
    else if s.blkRemain ≠ 0 then .next (s.raised .busy)
    else .next { s.clearFs with rsp := some { err := 0, data := 0 } } := by
  simp only [exec, execInit, notIn, guarded_cons, guarded_nil, respond_eq]

theorem exec_block (m : Nat) (s : State) : exec (.block m) s =
    if s.mode ≠ .run then .next (s.raised .mode)
    else if s.blkRemain ≠ 0 then .next (s.raised .busy)
    else if m = 0 then .next (s.raised .emptyInput)
    else .next { s with blkRemain := BitVec.ofNat 32 m, rsp := some { err := 0, data := 0 } } := by
  simp only [exec, execBlock, notIn, guarded_cons, guarded_nil, respond_eq]

theorem exec_push (x : Int) (s : State) : exec (.push x) s =
    if s.mode ≠ .run then .next (s.raised .mode)
    else if s.blkRemain = 0 then .next (s.raised .noBlock)
    else if ¬ InRangeS x s.params.wx then .next (s.raised .arg)
    else .next { (s.laneStep x).advance with
      rsp := some { err := 0, data := signedPattern s.params.wrsp (laneOutput s x) } } := by
  simp only [exec, execPush, notIn, guarded_cons, guarded_nil, respond_eq, signedData]

theorem exec_read_view {sel d : Nat} {s : State} (h : view s sel = some d) :
    exec (.read sel) s = .next { s with rsp := some { err := 0, data := d } } := by
  simp only [exec, execRead, h, respond_eq]

theorem exec_read_none {sel : Nat} {s : State} (h : view s sel = none) :
    exec (.read sel) s = .next (s.raised .arg) := by
  simp only [exec, execRead, h, raise_eq]

/-- A selector names a view exactly when it is at most 12 (10_state.md R116). -/
theorem view_eq_none_iff (s : State) (sel : Nat) : view s sel = none ↔ 12 < sel := by
  constructor
  · intro h
    by_contra hc
    have : sel ≤ 12 := by omega
    interval_cases sel <;> simp [view] at h
  · intro h
    unfold view
    split <;> first | omega | rfl

theorem exec_rdc (k : Nat) (s : State) : exec (.rdc k) s =
    if s.params.nmax ≤ k then .next (s.raised .arg)
    else .next { s with rsp := some { err := 0, data := signedPattern s.params.wrsp (elem s.coef k) } } := by
  simp only [exec, execRdc, guarded_cons, guarded_nil, respond_eq, signedData]

theorem exec_clrerr (s : State) : exec .clrerr s = .next { s with
    lastErr := 0, rsp := some { err := 0, data := unsignedPattern s.params.wrsp s.lastErr.toNat } } := rfl

/-! ### Words -/

theorem execWord_of_ok {w : Word} {i : Instr} (s : State) (h : decode w = .ok i) : execWord w s = exec i s := by
  simp only [execWord, h]

theorem execWord_of_error {w : Word} {x : Reject} (s : State) (h : decode w = .error x) :
    execWord w s = .next (s.raised .illegal) := by
  simp only [execWord, h, raise_eq]

end Sys2Proof.Machine
end

