-- ==== Sys2Proof/Laws/Filter.lean ====
section
/-! SUPPORT. Lemmas about the filter as a whole: sums and lanes at indices that may be negative, the MAC units as lane
convolutions, widths of sums, and which fields a stream depends on. -/

namespace Sys2Proof

/-! ### Sums and lanes -/

/-- A sum over n indices is the sum over the even ones plus the sum over the odd ones. -/
theorem sumTo_parity (f : Nat → Int) (n : Nat) :
    sumTo f n = sumTo (fun j => f (2 * j)) ((n + 1) / 2) + sumTo (fun j => f (2 * j + 1)) (n / 2) := by
  induction n with
  | zero => rfl
  | succ n ih =>
    rw [sumTo_succ, ih]
    rcases Nat.even_or_odd' n with ⟨m, rfl | rfl⟩
    · rw [show (2 * m + 1 + 1) / 2 = m + 1 by omega, show (2 * m + 1) / 2 = m by omega, show 2 * m / 2 = m by omega,
        sumTo_succ]
      ring
    · rw [show (2 * m + 1 + 1 + 1) / 2 = m + 1 by omega, show (2 * m + 1 + 1) / 2 = m + 1 by omega,
        show (2 * m + 1) / 2 = m by omega, sumTo_succ (fun j => f (2 * j + 1))]
      ring

theorem sumTo_add (f g : Nat → Int) (n : Nat) : sumTo (fun j => f j + g j) n = sumTo f n + sumTo g n := by
  induction n with
  | zero => rfl
  | succ n ih => simp only [sumTo_succ, ih]; ring

theorem elemZ_laneOf_zero (s : List Int) (i : Int) : elemZ (laneOf s 0 2) i = elemZ s (2 * i) := by
  unfold elemZ
  by_cases h : i < 0
  · rw [if_pos h, if_pos (by omega)]
  · rw [if_neg h, if_neg (by omega), elem_laneOf_zero]; congr 1; omega

theorem elemZ_laneOf_one (s : List Int) (i : Int) : elemZ (laneOf s 1 2) i = elemZ s (2 * i + 1) := by
  unfold elemZ
  by_cases h : i < 0
  · rw [if_pos h, if_pos (by omega)]
  · rw [if_neg h, if_neg (by omega), elem_laneOf_one]; congr 1; omega

theorem elemZ_append_lt (x : List Int) (v : Int) (i : Int) (h : i < x.length) : elemZ (x ++ [v]) i = elemZ x i := by
  unfold elemZ
  split
  · rfl
  · rw [elem_append, if_pos (by omega)]

theorem elemZ_append_eq (x : List Int) (v : Int) : elemZ (x ++ [v]) x.length = v := by
  rw [elemZ_natCast, elem_append, if_neg (by omega)]; simp

theorem elemZ_conv (h x : List Int) (i : Int) : elemZ (conv h x) i =
    if 0 ≤ i ∧ i < x.length then sumTo (fun k => elem h k * elemZ x (i - k)) h.length else 0 := by
  by_cases h0 : i < 0
  · rw [elemZ_of_neg _ _ h0, if_neg (by omega)]
  · by_cases h1 : (x.length : Int) ≤ i
    · rw [elemZ_of_length_le _ _ (by simpa using h1), if_neg (by omega)]
    · rw [if_pos (by omega)]
      obtain ⟨n, rfl⟩ : ∃ n : Nat, i = n := ⟨i.toNat, by omega⟩
      rw [elemZ_natCast, elem_conv _ _ _ (by omega)]; rfl

end Sys2Proof

namespace Sys2Proof.Machine

open Sys2Proof

variable {s : State} {x : List Int}

/-! ### The MAC units of a running filter -/

theorem elem_tapsOf (s : State) (k : Nat) : elem (tapsOf s) k = if k < s.ntaps then elem s.coef k else 0 :=
  elem_take _ _ _

theorem length_tapsOf (hi : Inv s) : (tapsOf s).length = s.ntaps := by
  simp [tapsOf, hi.sized.coef, hi.ntaps_le]

/-- MAC unit A0 of a running filter is the sum over the lane-0 taps; f is what its history holds. -/
theorem mac0_eq_lane_sum (hi : Inv s) (hr : s.mode = .run) (hist : List Int) (f : Nat → Int)
    (hf : ∀ j, j < s.params.k0 → elem hist j = f j) :
    mac0 s hist = sumTo (fun j => elem (laneOf (tapsOf s) 0 2) j * f j) ((s.ntaps + 1) / 2) := by
  have hle : (s.ntaps + 1) / 2 ≤ s.params.k0 := by have := hi.ntaps_le; unfold Params.k0; omega
  unfold mac0 mac
  rw [sumTo_of_zero_beyond hle]
  · apply sumTo_congr
    intro j hj
    rw [hf j (by omega), (hi.run hr).h0, elem_lane0Taps, if_pos (by omega), if_pos hj, elem_laneOf_zero, elem_tapsOf,
      if_pos (by omega)]
  · intro j h1 h2
    rw [(hi.run hr).h0, elem_lane0Taps, if_pos (by omega), if_neg (by omega), zero_mul]

/-- MAC unit A1 of a running filter is the sum over the lane-1 taps; f is what its history holds. -/
theorem mac1_eq_lane_sum (hi : Inv s) (hr : s.mode = .run) (hist : List Int) (f : Nat → Int)
    (hf : ∀ j, j < s.params.k1 → elem hist j = f j) :
    mac1 s hist = sumTo (fun j => elem (laneOf (tapsOf s) 1 2) j * f j) (s.ntaps / 2) := by
  have hle : s.ntaps / 2 ≤ s.params.k1 := by have := hi.ntaps_le; unfold Params.k1; omega
  unfold mac1 mac
  rw [sumTo_of_zero_beyond hle]
  · apply sumTo_congr
    intro j hj
    rw [hf j (by omega), (hi.run hr).h1, elem_lane1Taps, if_pos (by omega), if_pos hj, elem_laneOf_one, elem_tapsOf,
      if_pos (by omega)]
  · intro j h1 h2
    rw [(hi.run hr).h1, elem_lane1Taps, if_pos (by omega), if_neg (by omega), zero_mul]

/-- MAC unit S of a running filter is the two lane sums together; f is what its history holds. -/
theorem macs_eq_lane_sums (hi : Inv s) (hr : s.mode = .run) (hist : List Int) (f : Nat → Int)
    (hf : ∀ j, j < s.params.k0 → elem hist j = f j) :
    macs s hist = sumTo (fun j => elem (laneOf (tapsOf s) 0 2) j * f j) ((s.ntaps + 1) / 2) +
      sumTo (fun j => elem (laneOf (tapsOf s) 1 2) j * f j) (s.ntaps / 2) := by
  have hk := s.params.k1_le_k0
  rw [← mac0_eq_lane_sum hi hr hist f hf, ← mac1_eq_lane_sum hi hr hist f fun j hj => hf j (by omega)]
  unfold macs mac0 mac1 mac
  rw [← sumTo_of_zero_beyond (f := fun j => elem s.h1 j * elem hist j) hk, ← sumTo_add]
  · apply sumTo_congr
    intro j hj
    rw [(hi.run hr).hs, elem_sumTaps, if_pos hj]
    split
    · ring
    · rw [elem_of_length_le s.h1 j (by rw [hi.sized.h1]; omega)]; ring
  · intro j h1 _
    rw [elem_of_length_le s.h1 j (by rw [hi.sized.h1]; omega), zero_mul]

/-! ### Widths -/

theorem inRangeS_of_abs_lt {v : Int} {w : Nat} (h : |v| < 2 ^ (w - 1)) : InRangeS v w := by
  rw [abs_lt] at h
  exact ⟨by linarith [h.1], by linarith [h.2]⟩

theorem inRangeS_add {a b : Int} {w : Nat} (hw : 1 ≤ w) (ha : InRangeS a w) (hb : InRangeS b w) :
    InRangeS (a + b) (w + 1) := by
  have : (2 : Int) ^ (w + 1 - 1) = 2 * 2 ^ (w - 1) := by rw [← pow_succ']; congr 1; omega
  constructor <;> rw [this] <;> linarith [ha.1, ha.2, hb.1, hb.2]

/-- A MAC unit over taps of W_C bits and samples of W_X bits fits the accumulator. -/
theorem inRangeS_mac {p : Params} (hp : p.Legal) {k : Nat} (hk : k ≤ p.k0) {taps hist : List Int}
    (ht : ∀ c ∈ taps, InRangeS c p.wc) (hh : ∀ v ∈ hist, InRangeS v p.wx) : InRangeS (mac k taps hist) p.wacc := by
  apply inRangeS_of_abs_lt
  have h1 := abs_mac_le (k := k) (A := 2 ^ (p.wc - 1)) (B := 2 ^ (p.wx - 1)) (by positivity) (by positivity)
    (fun c hc => abs_le_of_inRangeS (ht c hc)) (fun c hc => abs_le_of_inRangeS (hh c hc))
  have h2 : (k : Int) ≤ 2 ^ clog2 p.k0 := by exact_mod_cast le_trans hk (le_two_pow_clog2 _)
  obtain ⟨_, _, _, hw1, _, hw2, _⟩ := hp
  have e : (2 : Int) ^ (p.wacc - 1) = 2 ^ clog2 p.k0 * (2 ^ (p.wc - 1) * 2 ^ (p.wx - 1)) * 8 := by
    rw [← pow_add, ← pow_add, show (8 : Int) = 2 ^ 3 by norm_num, ← pow_add]
    congr 1
    unfold Params.wacc
    omega
  have h3 : (k : Int) * (2 ^ (p.wc - 1) * 2 ^ (p.wx - 1)) ≤ 2 ^ clog2 p.k0 * (2 ^ (p.wc - 1) * 2 ^ (p.wx - 1)) := by
    apply mul_le_mul_of_nonneg_right h2; positivity
  have h4 : (0 : Int) < 2 ^ clog2 p.k0 * (2 ^ (p.wc - 1) * 2 ^ (p.wx - 1)) := by positivity
  rw [e]
  linarith

/-! ### Streams -/

/-- A stream depends on the fields named here only. -/
theorem streams_congr {s t : State} (h : Streams s x) (params : t.params = s.params) (mode : t.mode = s.mode)
    (phase : t.phase = s.phase) (scount : t.scount = s.scount) (xh0 : t.xh0 = s.xh0) (xh1 : t.xh1 = s.xh1)
    (xhs : t.xhs = s.xhs) (align : t.align = s.align) (a0hold : t.a0hold = s.a0hold) (taps : tapsOf t = tapsOf s) :
    Streams t x := by
  obtain ⟨a, b, c, d, e, f, g, i, j⟩ := h
  refine ⟨mode.trans a, params ▸ b, phase ▸ c, scount.trans d, ?_, ?_, ?_, ?_, ?_⟩
  · rw [xh0, params]; exact e
  · rw [xh1, params]; exact f
  · rw [xhs, params]; exact g
  · rw [align, taps]; exact i
  · rw [a0hold, taps]; exact j

end Sys2Proof.Machine
end

