-- ==== Sys2Proof/Laws/PerInstr.lean ====
section
/-! SUPPORT. The family EncodingFields: the three fields of every command's word (30_encoding.md R303, R305, R312). -/

namespace Sys2Proof.Laws

open Sys2Proof

/-- The bits of a word put together from its three fields (30_encoding.md R303). -/
theorem getLsbD_wordOf (a : Arg) (r : Reserved) (op : Opcode) (i : Nat) : (wordOf a r op).getLsbD i =
    if i < 4 then op.getLsbD i else if i - 4 < 28 then r.getLsbD (i - 4) else a.getLsbD (i - 4 - 28) := by
  show (((a ++ r : BitVec (32 + 28)) ++ op : BitVec (32 + 28 + 4))).getLsbD i = _
  simp only [BitVec.getLsbD_append]

theorem opOf_wordOf (a : Arg) (r : Reserved) (op : Opcode) : opOf (wordOf a r op) = op := by
  apply BitVec.eq_of_getLsbD_eq
  intro i hi
  simp [opOf, getLsbD_wordOf, hi]

theorem rsvOf_wordOf (a : Arg) (r : Reserved) (op : Opcode) : rsvOf (wordOf a r op) = r := by
  apply BitVec.eq_of_getLsbD_eq
  intro i hi
  simp [rsvOf, getLsbD_wordOf, hi]

theorem argOf_wordOf (a : Arg) (r : Reserved) (op : Opcode) : argOf (wordOf a r op) = a := by
  apply BitVec.eq_of_getLsbD_eq
  intro i hi
  have h1 : ¬ 32 + i < 4 := by omega
  have h2 : ¬ 32 + i - 4 < 28 := by omega
  have h3 : 32 + i - 4 - 28 = i := by omega
  simp [argOf, getLsbD_wordOf, hi, h1, h2, h3]

/-- A word is its three fields put together (30_encoding.md R303). -/
theorem wordOf_fields (w : Word) : wordOf (argOf w) (rsvOf w) (opOf w) = w := by
  apply BitVec.eq_of_getLsbD_eq
  intro i hi
  rw [getLsbD_wordOf]
  simp only [opOf, rsvOf, argOf, BitVec.getLsbD_extractLsb']
  split
  · simp_all
  · split
    · have : 4 + (i - 4) = i := by omega
      simp_all
    · have h1 : 32 + (i - 4 - 28) = i := by omega
      have h2 : i - 4 - 28 < 32 := by omega
      simp [h1, h2]

/-- The word of i holds i's opcode, a reserved field of 0 and i's operand, each in its place. -/
def EncodingFields.Statement (i : Instr) : Prop :=
  opOf (encode i) = i.opcode ∧ rsvOf (encode i) = 0 ∧ argOf (encode i) = i.operand

theorem encodingFields (i : Instr) : EncodingFields.Statement i :=
  ⟨opOf_wordOf _ _ _, rsvOf_wordOf _ _ _, argOf_wordOf _ _ _⟩

theorem EncodingFields.nop : EncodingFields.Statement .nop := encodingFields _
theorem EncodingFields.setn (n : Nat) : EncodingFields.Statement (.setn n) := encodingFields _
theorem EncodingFields.ldc (c : Int) : EncodingFields.Statement (.ldc c) := encodingFields _
theorem EncodingFields.setl (l : Nat) : EncodingFields.Statement (.setl l) := encodingFields _
theorem EncodingFields.start : EncodingFields.Statement .start := encodingFields _
theorem EncodingFields.stop : EncodingFields.Statement .stop := encodingFields _
theorem EncodingFields.init : EncodingFields.Statement .init := encodingFields _
theorem EncodingFields.block (m : Nat) : EncodingFields.Statement (.block m) := encodingFields _
theorem EncodingFields.push (x : Int) : EncodingFields.Statement (.push x) := encodingFields _
theorem EncodingFields.read (sel : Nat) : EncodingFields.Statement (.read sel) := encodingFields _
theorem EncodingFields.rdc (k : Nat) : EncodingFields.Statement (.rdc k) := encodingFields _
theorem EncodingFields.clrerr : EncodingFields.Statement .clrerr := encodingFields _

end Sys2Proof.Laws
end

