-- ==== Sys2Proof/Laws/Port.lean ====
section
/-! SUPPORT. What one step can do, said once. -/

namespace Sys2Proof.Machine

open Sys2Proof

theorem step_of_illegal {s : State} (h : ¬ s.params.Legal) : step s = .refused .illegalParameters := by
  rw [step, clockStep, if_neg h]

theorem step_of_no_edge {s : State} (hl : s.params.Legal) (h : s.host = []) : step s = .next s := by
  rw [step, clockStep, if_pos hl, h]

theorem step_of_edge {s : State} {e : Edge} {rest : List Edge} (hl : s.params.Legal) (h : s.host = e :: rest) :
    step s = atEdge e { s with host := rest } := by
  rw [step, clockStep, if_pos hl, h]

theorem atEdge_reset {e : Edge} (s : State) (h : e.rst = true) : atEdge e s = .next s.resetEdge := by
  simp only [atEdge, h, if_true]

theorem atEdge_deliver {e : Edge} {s : State} {r : Response} (h : e.rst = false) (hr : s.rsp = some r)
    (ha : e.rspReady = true) : atEdge e s = .next { s with rsp := none } := by
  simp [atEdge, State.delivers, State.rspValid, State.outstanding, h, hr, ha]

theorem atEdge_hold {e : Edge} {s : State} {r : Response} (h : e.rst = false) (hr : s.rsp = some r)
    (ha : e.rspReady = false) : atEdge e s = .next s := by
  simp [atEdge, State.delivers, State.accepts, State.rspValid, State.cmdReady, State.outstanding, h, hr, ha]

theorem atEdge_command {e : Edge} {s : State} (h : e.rst = false) (hr : s.rsp = none) (hv : e.cmdValid = true) :
    atEdge e s = execWord e.cmdWord s := by
  simp [atEdge, State.delivers, State.accepts, State.rspValid, State.cmdReady, State.outstanding, h, hr, hv]

theorem atEdge_idle {e : Edge} {s : State} (h : e.rst = false) (hr : s.rsp = none) (hv : e.cmdValid = false) :
    atEdge e s = .next s := by
  simp [atEdge, State.delivers, State.accepts, State.rspValid, State.cmdReady, State.outstanding, h, hr, hv]

/-- Everything an edge can do: reset, transfer a response, hold one, transfer a command, or idle. -/
theorem atEdge_cases (e : Edge) (s : State) :
    (e.rst = true ∧ atEdge e s = .next s.resetEdge) ∨
    (e.rst = false ∧ (∃ r, s.rsp = some r) ∧ e.rspReady = true ∧ atEdge e s = .next { s with rsp := none }) ∨
    (e.rst = false ∧ (∃ r, s.rsp = some r) ∧ e.rspReady = false ∧ atEdge e s = .next s) ∨
    (e.rst = false ∧ s.rsp = none ∧ e.cmdValid = true ∧ atEdge e s = execWord e.cmdWord s) ∨
    (e.rst = false ∧ s.rsp = none ∧ e.cmdValid = false ∧ atEdge e s = .next s) := by
  cases hrst : e.rst
  · cases hr : s.rsp with
    | some r =>
      cases ha : e.rspReady
      · exact .inr (.inr (.inl ⟨rfl, ⟨r, rfl⟩, rfl, atEdge_hold hrst hr ha⟩))
      · exact .inr (.inl ⟨rfl, ⟨r, rfl⟩, rfl, atEdge_deliver hrst hr ha⟩)
    | none =>
      cases hv : e.cmdValid
      · exact .inr (.inr (.inr (.inr ⟨rfl, rfl, rfl, atEdge_idle hrst hr hv⟩)))
      · exact .inr (.inr (.inr (.inl ⟨rfl, rfl, rfl, atEdge_command hrst hr hv⟩)))
  · exact .inl ⟨rfl, atEdge_reset s hrst⟩

end Sys2Proof.Machine
end

