-- ==== Sys2Proof/Tests/Slice0.lean ====
section
/-! SUPPORT. Tests: expected values are the vectors of spec/95_test_vectors.md (named D-, C-, S-, R-, X-, W-, P- as there) or
are worked by hand from the rules named. The last part shows, for each statement with hypotheses, operands and a state that meet
them. -/

namespace Sys2Proof.Tests

open Sys2Proof Sys2Proof.Machine

/-! ### Helpers -/

/-- A value of the state after an answer; none where the machine stops. -/
def after {α : Type} (f : State → α) : Result → Option α
  | .next t => some (f t)
  | .fault _ => none
  | .refused _ => none

/-- The code and data answered. -/
def answered : Result → Option (Nat × Nat)
  | .next t => t.rsp.map fun r => (r.err.toNat, r.data)
  | .fault _ => none
  | .refused _ => none

/-- The reference block in CONFIG, with n taps asked for and these loaded. -/
def config (n : Nat) (taps : List Int) : State :=
  { State.reset with ntaps := n, cptr := taps.length, coef := taps ++ List.replicate (16 - taps.length) 0 }

/-- The reference block in RUN with these taps loaded, a clear filter state and b samples to come. -/
def running (taps : List Int) (b : Count) : State :=
  { (config taps.length taps).deriveLaneSet with mode := .run, blkRemain := b }

/-- The smallest widths, and two taps. -/
def tiny : Params := { lanes := 2, nmax := 2, wc := 2, wx := 2 }

/-- The tiny block with the taps 1, -2 loaded. -/
def tinyLoaded : State := { State.atReset tiny with ntaps := 2, cptr := 2, coef := [1, -2] }

/-- The tiny block running them, no sample processed. -/
def tinyRun (b : Count) : State := { tinyLoaded with mode := .run, h0 := [1], h1 := [-2], hs := [-1], blkRemain := b }

/-- The same after the sample 1, so in lane 1. -/
def tinyRun1 (b : Count) : State := { tinyRun b with xh0 := [1], a0hold := 1, phase := .lane1, scount := 1 }

/-- The same after the samples 1, -2, so back in lane 0: y(1) = 1·(-2) + (-2)·1 = -4. -/
def tinyRun2 (b : Count) : State :=
  { tinyRun b with xh0 := [1], xh1 := [-2], xhs := [-1], a0hold := 1, align := 4, scount := 2 }

/-! ### WellFormed: an ill-formed term that each check refuses (30_encoding.md R311) -/

theorem test_wf_setn : (Instr.setn 4294967296).wf = false := by decide
theorem test_wf_ldc_high : (Instr.ldc 2147483648).wf = false := by decide
theorem test_wf_ldc_low : (Instr.ldc (-2147483649)).wf = false := by decide
theorem test_wf_setl : (Instr.setl 4294967296).wf = false := by decide
theorem test_wf_block : (Instr.block 4294967296).wf = false := by decide
theorem test_wf_push_high : (Instr.push 2147483648).wf = false := by decide
theorem test_wf_push_low : (Instr.push (-2147483649)).wf = false := by decide
theorem test_wf_read : (Instr.read 4294967296).wf = false := by decide
theorem test_wf_rdc : (Instr.rdc 4294967296).wf = false := by decide

/-! ### Decode: the word of each command, its arg, rsv and op written out (30_encoding.md R303, R305, R312) -/

theorem test_decode_nop : decode 0x0000000000000000 = .ok .nop := by decide
theorem test_decode_setn : decode 0x0000000400000001 = .ok (.setn 4) := by decide
theorem test_decode_setn_max : decode 0xFFFFFFFF00000001 = .ok (.setn 4294967295) := by decide
theorem test_decode_ldc : decode 0xFFFFFF8100000002 = .ok (.ldc (-127)) := by decide
theorem test_decode_setl : decode 0x0000000200000003 = .ok (.setl 2) := by decide
theorem test_decode_start : decode 0x0000000000000004 = .ok .start := by decide
theorem test_decode_stop : decode 0x0000000000000005 = .ok .stop := by decide
theorem test_decode_init : decode 0x0000000000000006 = .ok .init := by decide
theorem test_decode_block : decode 0x0000000800000007 = .ok (.block 8) := by decide
theorem test_decode_push : decode 0xFFFFFFFF00000008 = .ok (.push (-1)) := by decide
theorem test_decode_push_min : decode 0x8000000000000008 = .ok (.push (-2147483648)) := by decide
theorem test_decode_read : decode 0x0000000C00000009 = .ok (.read 12) := by decide
theorem test_decode_rdc : decode 0x000000100000000A = .ok (.rdc 16) := by decide
theorem test_decode_clrerr : decode 0x000000000000000B = .ok .clrerr := by decide

/-- LDC 5, bit by bit: arg 5, rsv 0, op 2. -/
theorem test_decode_ldc_bits :
    decode 0b0000000000000000000000000000010100000000000000000000000000000010 = .ok (.ldc 5) := by decide

/-- BLOCK 3, bit by bit: arg 3, rsv 0, op 7. -/
theorem test_decode_block_bits :
    decode 0b0000000000000000000000000000001100000000000000000000000000000111 = .ok (.block 3) := by decide

/-- RDC 1, bit by bit: arg 1, rsv 0, op 10. -/
theorem test_decode_rdc_bits :
    decode 0b0000000000000000000000000000000100000000000000000000000000001010 = .ok (.rdc 1) := by decide

theorem test_decode_D2 : decode 0x0000000100000000 = .error .nonzeroArg := by decide
theorem test_decode_D3 : decode 0x000000000000000C = .error .reservedOpcode := by decide
theorem test_decode_D4 : decode 0x000000000000000D = .error .reservedOpcode := by decide
theorem test_decode_D5 : decode 0x000000000000000E = .error .reservedOpcode := by decide
theorem test_decode_D6 : decode 0x000000000000000F = .error .reservedOpcode := by decide
theorem test_decode_D7 : decode 0x0000000000000010 = .error .reservedBits := by decide
theorem test_decode_D8 : decode 0x0000000480000001 = .error .reservedBits := by decide
theorem test_decode_D9 : decode 0x0000000100000004 = .error .nonzeroArg := by decide
theorem test_decode_D10 : decode 0x0000000100000005 = .error .nonzeroArg := by decide
theorem test_decode_D11 : decode 0x0000000100000006 = .error .nonzeroArg := by decide
theorem test_decode_D12 : decode 0x000000010000000B = .error .nonzeroArg := by decide

/-- 20_memory.md R202: LDC -127, byte 0 (with the opcode) first. -/
theorem test_decode_bytes : decodeBytes [0x02, 0x00, 0x00, 0x00, 0x81, 0xFF, 0xFF, 0xFF] = .ok (.ldc (-127)) := by decide
theorem test_decode_too_few_bytes : decodeBytes [0x00, 0x00, 0x00] = .error .notEightBytes := by decide
theorem test_decode_table_word : decodeTableWord 64 0x0000000300000007 = some (.block 3) := by decide
theorem test_decode_table_word_short : decodeTableWord 8 0x04 = some .start := by decide
theorem test_encode_ldc : encode (.ldc (-127)) = 0xFFFFFF8100000002 := by decide
theorem test_encode_block : encode (.block 4294967295) = 0xFFFFFFFF00000007 := by decide

/-! ### The assembler (30_encoding.md R311, R313) -/

/-- `push -1 ; x`: lower case, a negative operand, a comment. -/
theorem test_assemble_push : assembleLine ['p', 'u', 's', 'h', ' ', '-', '1', ' ', ';', ' ', 'x'] = .ok [.push (-1)] := by
  decide
theorem test_assemble_read_name : assembleLine ['R', 'E', 'A', 'D', ' ', 'A', 'L', 'I', 'G', 'N'] = .ok [.read 6] := by decide
theorem test_assemble_hex : assembleLine ['R', 'D', 'C', ' ', '0', 'x', '1', 'f'] = .ok [.rdc 31] := by decide
theorem test_assemble_setn_negative : assembleLine ['S', 'E', 'T', 'N', ' ', '-', '1'] = .error .cannotEncode := by decide
theorem test_assemble_setup : assembleLine ['S', 'E', 'T', 'U', 'P', ' ', '1', ',', ' ', '-', '2'] =
    .ok [.setl 2, .setn 2, .ldc 1, .ldc (-2), .start] := by decide
theorem test_assemble_filter_empty : assembleLine ['F', 'I', 'L', 'T', 'E', 'R'] = .ok [.block 0] := by decide

/-! ### Parameters (00_scope.md R8, R10; 95_test_vectors.md X-9) -/

theorem test_reference_widths : (Params.reference.k0, Params.reference.k1, Params.reference.wy, Params.reference.wacc,
    Params.reference.wrsp) = (8, 8, 20, 21, 32) := by decide
theorem test_one_tap_widths : let p : Params := { lanes := 2, nmax := 1, wc := 8, wx := 8 }
    (p.k0, p.k1, p.wy, p.wacc, p.wrsp) = (1, 0, 16, 18, 32) := by decide

/-! ### Configuration commands (95_test_vectors.md §2.2) -/

theorem test_setn_C3 : after (fun t => (t.ntaps, t.cptr, t.rsp)) (exec (.setn 16) State.reset) =
    some (16, 0, some { err := 0, data := 0 }) := by decide
theorem test_setn_C11 : after (fun t => (t.ntaps, t.cptr, t.coef)) (exec (.setn 3) (config 2 [3, 4])) =
    some (3, 0, List.replicate 16 0) := by decide
theorem test_ldc_C7 : after (fun t => (t.coef.take 2, t.cptr)) (exec (.ldc (-128)) (config 2 [])) =
    some ([-128, 0], 1) := by decide
theorem test_ldc_C10 : answered (exec (.ldc 999) (config 2 [3, 4])) = some (5, 0) := by decide
theorem test_setl_C12 : exec (.setl 2) State.reset = .next { State.reset with rsp := some { err := 0, data := 0 } } :=
  rfl
theorem test_setl_C13 : answered (exec (.setl 3) State.reset) = some (8, 0) := by decide
theorem test_start_C17 : after (fun t => (t.h0.take 4, t.h1.take 3, t.hs.take 4))
    (exec .start (config 5 [1, -1, 2, -2, 3])) = some ([1, 2, 3, 0], [-1, -2, 0], [0, 0, 3, 0]) := by decide
theorem test_start_C15 : answered (exec .start (config 4 [1, 2, 3])) = some (6, 0) := by decide
theorem test_stop_C19 : after (fun t => (t.mode, t.phase, t.align, t.xh0, t.scount, t.coef, t.h1))
    (exec .stop (tinyRun1 0)) = some (.config, .lane0, 0, [0], 0, [1, -2], [-2]) := by rfl
theorem test_stop_C20 : after (fun t => (t.lastErr, t.mode)) (exec .stop (tinyRun 3)) = some (3, .run) := by decide

/-! ### Streaming commands (95_test_vectors.md §2.3, §2.6) -/

theorem test_init_S13 : after (fun t => (t.mode, t.phase, t.a0hold, t.xh0, t.scount, t.h0)) (exec .init (tinyRun1 0)) =
    some (.run, .lane0, 0, [0], 0, [1]) := by rfl
theorem test_init_S14 : answered (exec .init (tinyRun 1)) = some (3, 0) := by decide
theorem test_block_S6 : after (fun t => (t.blkRemain, t.rsp)) (exec (.block 4294967295) (tinyRun 0)) =
    some (0xFFFFFFFF, some { err := 0, data := 0 }) := by decide
theorem test_block_S4 : answered (exec (.block 0) (tinyRun 2)) = some (3, 0) := by decide
theorem test_push_S12 : after (fun t => (t.rsp, t.phase, t.blkRemain, t.scount, t.xh0.take 2, t.a0hold))
    (exec (.push 1) (running [1, 2, 3, 4] 8)) =
    some (some { err := 0, data := 1 }, .lane1, 7, 1, [1, 0], 1) := by rfl

/-- The trace of X-2 at i = 3, with a state written out from its row i = 2: y = -3, xh1 = [1, 0], xhs = [-3, 4, 0],
align = -1. -/
theorem test_push_X2 : after (fun t => (t.rsp, t.xh1.take 2, t.xhs.take 3, t.align, t.a0hold))
    (exec (.push 1) { running [1, -1, 2, -2, 3] 2 with
      xh0 := [-4, 4, 0, 0, 0, 0, 0, 0], xhs := [4, 0, 0, 0, 0, 0, 0, 0], a0hold := 4, phase := .lane1, scount := 3 }) =
    some (some { err := 0, data := 0xFFFFFFFD }, [1, 0], [-3, 4, 0], -1, 4) := by decide

/-! ### Readback (95_test_vectors.md §2.4) -/

theorem test_read_id : answered (exec (.read 12) State.reset) = some (0, 0x46464132) := by decide
theorem test_read_R9 : answered (exec (.read 6) { tinyRun 0 with align := -2 }) = some (0, 0xFFFFFFFE) := by decide
theorem test_rdc_R1 : answered (exec (.rdc 0) (config 2 [-128, 127])) = some (0, 0xFFFFFF80) := by decide
theorem test_rdc_R4 : answered (exec (.rdc 16) (config 2 [-128, 127])) = some (7, 0) := by decide
theorem test_nop_R8 : exec .nop (tinyRun1 2) = .next { tinyRun1 2 with rsp := some { err := 0, data := 0 } } := rfl
theorem test_clrerr_R6 : after (fun t => (t.rsp, t.lastErr)) (exec .clrerr { State.reset with lastErr := 9 }) =
    some (some { err := 0, data := 9 }, 0) := by decide

theorem test_status_run : statusView (running [1, 2] 0) = 0x09 := by decide
theorem test_status_block : statusView { running [1, 2] 5 with phase := .lane1 } = 0x0F := by decide
theorem test_status_error : statusView { State.reset with lastErr := 6 } = 0x60 := by decide

/-! ### Words and steps -/

/-- D-10: STOP with arg ≠ 0 in an open block; ILLEGAL comes before BUSY. -/
theorem test_word_D10 : answered (execWord 0x0000000100000005 (tinyRun 1)) = some (1, 0) := by decide

/-- D-12: CLRERR with arg ≠ 0 does not clear. -/
theorem test_word_D12 : after State.lastErr (execWord 0x000000010000000B { State.reset with lastErr := 9 }) = some 1 := by
  decide

/-- The first command after reset, as the host's question places it. -/
theorem test_step_fetch : after (fun t => (t.ntaps, t.host)) (step (State.reset.withFetchWord 64 0x0000000400000001)) =
    some (4, []) := by decide

/-- A step with `rst = 1` in an open block: STATUS reads 0 (95_test_vectors.md §2.8). -/
theorem test_step_reset : after statusView (step { tinyRun1 5 with lastErr := 7, host := [resetPulse] }) = some 0 := by decide

/-! ### Functions of the spec beside the block (95_test_vectors.md W1, W2, §2.5) -/

theorem test_split_3 : split [1, 2, 3, 4, 5, 6, 7] 3 = [[1, 4, 7], [2, 5], [3, 6]] := by decide
theorem test_split_one : split [9] 2 = [[9], []] := by decide
theorem test_merge_3 : merge [[1, 4, 7], [2, 5], [3, 6]] = .ok [1, 2, 3, 4, 5, 6, 7] := by decide
theorem test_merge_longer : merge [[1], [2, 3]] = .error .lengthMismatch := by decide
theorem test_merge_shorter : merge [[1, 2, 3], [4]] = .error .lengthMismatch := by decide

/-- W2: the reference result, and the batch form's lanes. -/
theorem test_refFir_W2 : refFir [1, 2, 3, 4] [1, 0, 0, 0, 0, 0, 0, 0] = some [1, 2, 3, 4, 0, 0, 0, 0] := by decide
theorem test_ffaLanes_W2 : ffaLanes [1, 2, 3, 4] [1, 0, 0, 0, 0, 0, 0, 0] = ([1, 3, 0, 0], [2, 4, 0, 0]) := by decide

/-- W1: [0.5, -1, 0.25] at width 8 gives [64, -127, 32]. -/
theorem test_adapt_W1 : adapt [1 / 2, -1, 1 / 4] 8 = .ok [64, -127, 32] := by
  have h : maxMagnitude [1 / 2, -1, 1 / 4] = 1 := by norm_num [maxMagnitude]
  norm_num [adapt, h, quantise, roundHalfAway]

/-! ### Witnesses: each statement's hypotheses are met -/

/-- The tiny block satisfies the invariants in CONFIG, and in RUN before, between and after the two samples. -/
theorem witness_inv_loaded : Inv tinyLoaded where
  legal := by decide
  sized := ⟨rfl, rfl, rfl, rfl, rfl, rfl, rfl⟩
  cptr_le := by decide
  ntaps_le := by decide
  coef_beyond := fun k hk => elem_of_length_le _ _ hk
  run := fun h => nomatch h
  config := fun _ => ⟨rfl, rfl, rfl, rfl, rfl, by decide, by decide, by decide⟩
  phase := by decide
  widths := ⟨by decide, by decide, by decide, by decide, by decide, by decide, by decide, by decide, by decide⟩
  lastErr := by decide
  response := fun _ h => nomatch h

theorem witness_inv_run : ∀ s ∈ [tinyRun 0, tinyRun 1, tinyRun1 1, tinyRun2 0, tinyRun2 1], Inv s := by
  intro s hs
  fin_cases hs <;>
  exact {
    legal := by decide
    sized := ⟨rfl, rfl, rfl, rfl, rfl, rfl, rfl⟩
    cptr_le := by decide
    ntaps_le := by decide
    coef_beyond := fun k hk => elem_of_length_le _ _ hk
    run := fun _ => ⟨by decide, rfl, by decide, by decide, by decide⟩
    config := fun h => nomatch h
    phase := by decide
    widths := ⟨by decide, by decide, by decide, by decide, by decide, by decide, by decide, by decide, by decide⟩
    lastErr := by decide
    response := fun _ h => nomatch h }

/-- They meet `Streams` with the samples that led to them: none, [1] and [1, -2]. -/
theorem witness_streams_none : ∀ s ∈ [tinyRun 0, tinyRun 1], Streams s [] := by
  intro s hs
  fin_cases hs <;>
  exact ⟨rfl, by decide, by decide, by decide, by decide, by decide, by decide, by decide, by decide⟩

theorem witness_streams_one : Streams (tinyRun1 1) [1] :=
  ⟨rfl, by decide, by decide, by decide, by decide, by decide, by decide, by decide, by decide⟩

theorem witness_streams_two : ∀ s ∈ [tinyRun2 0, tinyRun2 1], Streams s [1, -2] := by
  intro s hs
  fin_cases hs <;>
  exact ⟨rfl, by decide, by decide, by decide, by decide, by decide, by decide, by decide, by decide⟩

/-! #### Encoding -/

/-- DecodeOfEncode, at both ends of the signed field. -/
theorem witness_decodeOfEncode : (Instr.push (-2147483648)).wf = true ∧ (Instr.ldc 2147483647).wf = true ∧
    (Instr.setn 4294967295).wf = true := by decide

theorem witness_encodeOfDecode : decode 0x7FFFFFFF00000008 = .ok (.push 2147483647) := by decide

/-- WordIsCommandOrRaisesIllegal: each ground for ILLEGAL, at its least and greatest value, and a command. -/
theorem witness_illegal_words :
    (rsvOf 0x0000000000000010 ≠ 0 ∧ rsvOf 0x0000000080000000 ≠ 0) ∧
    (12 ≤ (opOf 0x000000000000000C).toNat ∧ 12 ≤ (opOf 0x000000000000000F).toNat) ∧
    ((opOf 0x0000000100000000).toNat ∈ [0, 4, 5, 6, 11] ∧ argOf 0x0000000100000000 ≠ 0) ∧
    ((opOf 0x800000000000000B).toNat ∈ [0, 4, 5, 6, 11] ∧ argOf 0x800000000000000B ≠ 0) ∧
    ¬ (rsvOf 0xFFFFFFFF0000000A ≠ 0 ∨ 12 ≤ (opOf 0xFFFFFFFF0000000A).toNat ∨
      ((opOf 0xFFFFFFFF0000000A).toNat ∈ [0, 4, 5, 6, 11] ∧ argOf 0xFFFFFFFF0000000A ≠ 0)) := by decide

theorem witness_assembledCommands : assembleLine ['L', 'D', 'C', ' ', '-', '2', '1', '4', '7', '4', '8', '3', '6', '4', '8'] =
    .ok [.ldc (-2147483648)] := by decide

/-! #### The port -/

/-- A state with legal parameters whose next edge brings a command, with none outstanding (StepRunsDecodedCommand). -/
theorem witness_command_edge :
    let s : State := { tinyRun 1 with host := [commandEdge 0x0000000100000008] }
    s.params.Legal ∧ s.host = commandEdge 0x0000000100000008 :: [] ∧ (commandEdge 0x0000000100000008).rst = false ∧
      (commandEdge 0x0000000100000008).cmdValid = true ∧ s.rsp = none ∧
      decode (commandEdge 0x0000000100000008).cmdWord = .ok (.push 1) :=
  ⟨by decide, rfl, rfl, rfl, rfl, by decide⟩

/-- StepAlwaysContinues: a state with no edge to come, and one whose next edge is idle with no command outstanding. -/
theorem witness_idle :
    let s : State := { tinyRun 1 with host := [acceptEdge] }
    ((tinyRun 1).params.Legal ∧ (tinyRun 1).host = []) ∧ s.params.Legal ∧ s.host = acceptEdge :: [] ∧
      acceptEdge.rst = false ∧ acceptEdge.cmdValid = false ∧ s.rsp = none :=
  ⟨⟨by decide, rfl⟩, by decide, rfl, rfl, rfl, rfl⟩

/-- A reset edge in an open block, with a response outstanding and everything else asserted (ResetClearsEverything). -/
theorem witness_reset_edge :
    let e : Edge := { rst := true, cmdValid := true, cmdWord := 0, rspReady := true }
    let s : State := { tinyRun1 1 with rsp := some { err := 7, data := 0 }, host := [e] }
    s.params.Legal ∧ s.host = e :: [] ∧ e.rst = true := ⟨by decide, rfl, rfl⟩

/-- An outstanding response at an edge that accepts it, and at one that does not (OutstandingResponseIsHeld). -/
theorem witness_outstanding :
    let s : State := { tinyRun 1 with rsp := some { err := 0, data := 0 }, host := [commandEdge 0, acceptEdge] }
    s.params.Legal ∧ s.host = commandEdge 0 :: [acceptEdge] ∧ (commandEdge 0).rst = false ∧
      (commandEdge 0).rspReady = false ∧ acceptEdge.rspReady = true ∧ s.rsp = some { err := 0, data := 0 } :=
  ⟨by decide, rfl, rfl, rfl, rfl, rfl⟩

/-- One transaction: SETN 0 after reset is answered with ARG (TransactionTakesTwoEdges). -/
theorem witness_transaction :
    let s : State := { State.atReset tiny with host := transactionEdges 1 ++ [] }
    s.params.Legal ∧ s.rsp = none ∧ s.host = transactionEdges 1 ++ [] ∧
      serve 1 s = some ({ s with lastErr := 7 }, { err := 7, data := 0 }) := ⟨by decide, rfl, rfl, by decide⟩

/-- A host that presents NOP while a response is outstanding, and holds it (HeldCommandRunsNext). -/
theorem witness_held_command :
    let e : Edge := { rst := false, cmdValid := true, cmdWord := 0, rspReady := true }
    let s : State := { tinyRun 1 with rsp := some { err := 0, data := 0 }, host := [e, e] }
    s.params.Legal ∧ s.rsp = some { err := 0, data := 0 } ∧ s.host = e :: e :: [] ∧
      HoldsCommand s.outstanding s.host ∧ e.rst = false ∧ e.cmdValid = true ∧ e.rspReady = true ∧
      decode e.cmdWord = .ok .nop := by
  refine ⟨by decide, rfl, rfl, ⟨fun _ => .inr ⟨rfl, rfl⟩, trivial⟩, rfl, rfl, rfl, by decide⟩

/-- Parameters inside R6's ranges at both ends (StepAlwaysContinues, EveryElaborationStartsInInvariants), and just outside each
(IllegalParametersAreRefused). -/
theorem witness_parameters :
    Params.Legal { lanes := 2, nmax := 1, wc := 2, wx := 2 } ∧ Params.Legal { lanes := 2, nmax := 65536, wc := 32, wx := 32 } ∧
    ¬ Params.Legal { lanes := 3, nmax := 16, wc := 8, wx := 8 } ∧ ¬ Params.Legal { lanes := 2, nmax := 0, wc := 8, wx := 8 } ∧
    ¬ Params.Legal { lanes := 2, nmax := 65537, wc := 8, wx := 8 } ∧ ¬ Params.Legal { lanes := 2, nmax := 16, wc := 1, wx := 8 } ∧
    ¬ Params.Legal { lanes := 2, nmax := 16, wc := 8, wx := 33 } := by decide

/-! #### Errors -/

/-- ErrorChangesOnlyLastErr, RetryRaisesTheSameError, LastErrIsSticky: an error answer. -/
theorem witness_raises : Raises (.push 2) (tinyRun 1) .arg := by unfold Raises; rfl

/-- LastErrIsSticky: a success that is no CLRERR, an ILLEGAL word and CLRERR. -/
theorem witness_last_err :
    answered (exec .nop { tinyRun 1 with lastErr := 4 }) = some (0, 0) ∧ decode 0x000000000000000C = .error .reservedOpcode ∧
    answered (exec .clrerr { tinyRun 1 with lastErr := 4 }) = some (0, 4) := by decide

/-- SmallestErrorCodeIsReported: two errors apply to PUSH 2 with no block open, NO_BLOCK the smaller; none applies to INIT. -/
theorem witness_errors_apply : Applies .noBlock (.push 2) (tinyRun 0) ∧ Applies .arg (.push 2) (tinyRun 0) ∧
    (∀ e, Applies e (.push 2) (tinyRun 0) → Err.noBlock.code ≤ e.code) ∧ ∀ e, ¬ Applies e .init (tinyRun 0) := by
  refine ⟨rfl, by change ¬ InRangeS 2 2; decide, fun e h => ?_, fun e h => ?_⟩
  · cases e <;> first | exact h.elim | exact Mode.noConfusion h | decide
  · cases e <;> first | exact h.elim | exact Mode.noConfusion h | exact h rfl

/-! #### Invariants and whole-machine rules -/

/-- EveryStepKeepsInvariants: a step from a state with the invariants. -/
theorem witness_step_inv : Inv (tinyRun 1) ∧ step (tinyRun 1) = .next (tinyRun 1) :=
  ⟨witness_inv_run _ (by simp), rfl⟩

/-- OnlyStartAndStopChangeMode: START and STOP change it. -/
theorem witness_mode_changes : after State.mode (exec .start tinyLoaded) = some .run ∧ tinyLoaded.mode = .config ∧
    after State.mode (exec .stop (tinyRun 0)) = some .config ∧ (tinyRun 0).mode = .run := by decide

/-- CoefficientWriters: SETN changes ntaps, cptr and coef, LDC changes cptr and coef. -/
theorem witness_coefficient_writers :
    after (fun t => (t.ntaps, t.cptr, t.coef)) (exec (.setn 1) tinyLoaded) = some (1, 0, [0, 0]) ∧
    (tinyLoaded.ntaps, tinyLoaded.cptr, tinyLoaded.coef) = (2, 2, [1, -2]) ∧
    after (fun t => (t.cptr, t.coef)) (exec (.ldc 1) { State.atReset tiny with ntaps := 2 }) = some (1, [1, 0]) := by decide

/-- OnlyStartWritesLaneSet, FilterStateWriters: a PUSH in each lane, a BLOCK and a NOP answer a next state. -/
theorem witness_filter_writers :
    after State.xh0 (exec (.push 1) (tinyRun 1)) = some [1] ∧ (tinyRun 1).phase = .lane0 ∧
    after State.xh1 (exec (.push (-2)) (tinyRun1 1)) = some [-2] ∧ (tinyRun1 1).phase = .lane1 ∧
    after State.blkRemain (exec (.block 1) (tinyRun 0)) = some 1 ∧ after State.align (exec .nop (tinyRun2 1)) = some 4 := by
  decide

/-- ClearingTable: START, STOP and INIT succeed. -/
theorem witness_clearing : (∃ d t, Succeeds .start tinyLoaded d t) ∧ (∃ d t, Succeeds .stop (tinyRun2 0) d t) ∧
    ∃ d t, Succeeds .init (tinyRun2 0) d t :=
  ⟨⟨0, _, rfl⟩, ⟨0, _, rfl⟩, ⟨0, _, rfl⟩⟩

/-- OpenCallCannotBeCancelled: a block with one sample to come, and with the most that can. -/
theorem witness_open_call : (tinyRun 1).mode = .run ∧ (tinyRun 1).blkRemain ≠ 0 ∧ (tinyRun 0xFFFFFFFF).blkRemain ≠ 0 := by
  decide

/-! #### Commands: the conditions of each clause, at the ends of the operand's range -/

theorem witness_setn : State.reset.mode = .config ∧ (1 ≤ 1 ∧ 1 ≤ State.reset.params.nmax) ∧
    (1 ≤ 16 ∧ 16 ≤ State.reset.params.nmax) ∧ State.reset.params.nmax < 17 ∧ (running [1] 0).mode = .run := by decide

theorem witness_ldc : (config 2 []).mode = .config ∧ (config 2 []).cptr ≠ (config 2 []).ntaps ∧
    InRangeS 127 (config 2 []).params.wc ∧ InRangeS (-128) (config 2 []).params.wc ∧
    ¬ InRangeS 128 (config 2 []).params.wc ∧ ¬ InRangeS (-129) (config 2 []).params.wc ∧
    (config 2 []).cptr < (config 2 []).coef.length ∧ 1 ≤ (config 2 []).ntaps ∧
    (config 2 [3, 4]).cptr = (config 2 [3, 4]).ntaps ∧ (running [1] 0).mode = .run := by decide

theorem witness_setl : State.reset.mode = .config ∧ (running [1] 0).mode = .run ∧ (1 : Nat) ≠ 2 ∧ (3 : Nat) ≠ 2 ∧
    (3 : Nat) < 2 ^ 32 := by decide

theorem witness_start : tinyLoaded.mode = .config ∧ tinyLoaded.ntaps ≠ 0 ∧ tinyLoaded.cptr = tinyLoaded.ntaps ∧
    State.reset.ntaps = 0 ∧ (config 2 [1]).cptr ≠ (config 2 [1]).ntaps ∧ (config 2 [1]).mode = .config ∧
    (tinyRun 0).mode = .run := by decide

theorem witness_stop_init_block : (tinyRun2 0).mode = .run ∧ (tinyRun2 0).blkRemain = 0 ∧ (tinyRun2 1).blkRemain ≠ 0 ∧
    State.reset.mode = .config ∧ (1 ≤ 1 ∧ 1 < 2 ^ 32) ∧ (1 ≤ 4294967295 ∧ 4294967295 < 2 ^ 32) := by decide

/-- InitClearsFilterState, the clause on a filter whose state is clear. -/
theorem witness_init_clear : (tinyRun 0).mode = .run ∧ Sized (tinyRun 0) ∧ FilterStateClear (tinyRun 0) :=
  ⟨rfl, (witness_inv_run _ (by simp)).sized, ⟨rfl, rfl, rfl, rfl, rfl, by decide, by decide, by decide⟩⟩

/-- PushLaneZeroStep, PushLaneOneStep, PushSequencesOneSample: a sample at either end of its range in either lane, and the
conditions of each error. -/
theorem witness_push : ((tinyRun 1).mode = .run ∧ (tinyRun 1).blkRemain ≠ 0 ∧ (tinyRun 1).phase = .lane0) ∧
    ((tinyRun1 1).mode = .run ∧ (tinyRun1 1).blkRemain ≠ 0 ∧ (tinyRun1 1).phase = .lane1) ∧
    (tinyRun 1).params.Legal ∧ InRangeS (-2) (tinyRun 1).params.wx ∧ InRangeS 1 (tinyRun 1).params.wx ∧
    ¬ InRangeS 2 (tinyRun 1).params.wx ∧ ¬ InRangeS (-3) (tinyRun 1).params.wx ∧ (tinyRun 0).blkRemain = 0 ∧
    State.reset.mode = .config := by decide

theorem witness_push_sized : Sized (tinyRun 1) ∧ Sized (tinyRun1 1) :=
  ⟨(witness_inv_run _ (by simp)).sized, (witness_inv_run _ (by simp)).sized⟩

theorem witness_read : tinyLoaded.params.Legal ∧ tinyLoaded.ntaps ≤ tinyLoaded.params.nmax ∧
    tinyLoaded.cptr ≤ tinyLoaded.ntaps ∧ tinyLoaded.mode = .config ∧ 12 < 13 ∧ 12 < 2 ^ 32 := by decide

/-- RdcAnswersCoefficient: an index below NMAX, one from ntaps on, and NMAX, in a state with the invariants. -/
theorem witness_rdc : Inv (State.atReset tiny) ∧ (State.atReset tiny).ntaps ≤ 1 ∧ 1 < (State.atReset tiny).params.nmax ∧
    (State.atReset tiny).params.nmax ≤ 2 :=
  ⟨{ legal := by decide, sized := ⟨rfl, rfl, rfl, rfl, rfl, rfl, rfl⟩, cptr_le := by decide, ntaps_le := by decide,
      coef_beyond := fun k _ => elem_replicate_zero _ k, run := (fun h => nomatch h),
      config := fun _ => ⟨rfl, rfl, rfl, rfl, rfl, by decide, by decide, by decide⟩, phase := by decide,
      widths := ⟨by decide, by decide, by decide, by decide, by decide, by decide, by decide, by decide, by decide⟩,
      lastErr := by decide, response := (fun _ h => nomatch h) }, by decide, by decide, by decide⟩

/-- The words of NOP, START, STOP, INIT and CLRERR with arg ≠ 0, at either end of arg's range. -/
theorem witness_nonzero_arg :
    (rsvOf 0x0000000100000000 = 0 ∧ opOf 0x0000000100000000 = 0 ∧ argOf 0x0000000100000000 ≠ 0) ∧
    (rsvOf 0xFFFFFFFF00000004 = 0 ∧ opOf 0xFFFFFFFF00000004 = 4 ∧ argOf 0xFFFFFFFF00000004 ≠ 0) ∧
    (rsvOf 0x0000000100000005 = 0 ∧ opOf 0x0000000100000005 = 5 ∧ argOf 0x0000000100000005 ≠ 0) ∧
    (rsvOf 0xFFFFFFFF00000006 = 0 ∧ opOf 0xFFFFFFFF00000006 = 6 ∧ argOf 0xFFFFFFFF00000006 ≠ 0) ∧
    (rsvOf 0x000000010000000B = 0 ∧ opOf 0x000000010000000B = 0xB ∧ argOf 0x000000010000000B ≠ 0) := by decide

/-! #### The filter -/

/-- LoadhLoadsTheTaps: as many taps as the block holds, and one tap. -/
theorem witness_loadh : Inv (State.atReset tiny) ∧ (State.atReset tiny).mode = .config ∧ (State.atReset tiny).rsp = none ∧
    [1, -2].length ≤ (State.atReset tiny).params.nmax ∧ (∀ c ∈ [1, -2], InRangeS c (State.atReset tiny).params.wc) ∧
    [(1 : Int)] ≠ [] := ⟨witness_rdc.1, rfl, rfl, by decide, by decide, by decide⟩

/-- StartBeginsEmptyStream, InitBeginsEmptyStream, PushAnswersReferenceOutput, OtherCommandsKeepTheStream,
DatapathNeverOverflows and the second clauses of PushLaneZeroStep and PushLaneOneStep: a stream that can be started, one that can be started again, and samples to push in either lane. -/
theorem witness_streams :
    (Inv tinyLoaded ∧ tinyLoaded.mode = .config ∧ tinyLoaded.ntaps ≠ 0 ∧ tinyLoaded.cptr = tinyLoaded.ntaps) ∧
    (Inv (tinyRun2 0) ∧ Streams (tinyRun2 0) [1, -2] ∧ (tinyRun2 0).blkRemain = 0) ∧
    (Inv (tinyRun2 1) ∧ Streams (tinyRun2 1) [1, -2] ∧ (tinyRun2 1).blkRemain ≠ 0 ∧ InRangeS 1 (tinyRun2 1).params.wx) ∧
    (Inv (tinyRun1 1) ∧ Streams (tinyRun1 1) [1] ∧ (tinyRun1 1).blkRemain ≠ 0 ∧ InRangeS (-2) (tinyRun1 1).params.wx) ∧
    answered (exec (.push 2) (tinyRun1 1)) = some (7, 0) ∧ answered (exec (.rdc 0) (tinyRun1 1)) = some (0, 1) :=
  ⟨⟨witness_inv_loaded, rfl, by decide, rfl⟩, ⟨witness_inv_run _ (by simp), witness_streams_two _ (by simp), rfl⟩,
    ⟨witness_inv_run _ (by simp), witness_streams_two _ (by simp), by decide, by decide⟩,
    ⟨witness_inv_run _ (by simp), witness_streams_one, by decide, by decide⟩, by decide, by decide⟩

/-- ColdStartAnswersFirstTap: START and INIT succeed in states with the invariants; a block of one sample, at the end of its
range. -/
theorem witness_cold_start : (Inv tinyLoaded ∧ ∃ d u, Succeeds .start tinyLoaded d u) ∧
    (Inv (tinyRun2 0) ∧ ∃ d u, Succeeds .init (tinyRun2 0) d u) ∧ (1 ≤ 1 ∧ 1 < 2 ^ 32) ∧ InRangeS (-2) 2 :=
  ⟨⟨witness_inv_loaded, 0, _, rfl⟩, ⟨witness_inv_run _ (by simp), 0, _, rfl⟩, by decide, by decide⟩

/-- OutputsFitTheResponsePort, FilterCallsEqualReferenceFir: two taps and two calls, at the ends of their ranges. -/
theorem witness_filter_calls : tiny.Legal ∧ [1, -2].length ≤ tiny.nmax ∧ (∀ c ∈ [1, -2], InRangeS c tiny.wc) ∧
    (∀ xs ∈ [[1, -2], [0]], xs ≠ [] ∧ xs.length < 2 ^ 32 ∧ ∀ v ∈ xs, InRangeS v tiny.wx) ∧
    (∀ v ∈ [1, -2, 0], InRangeS v tiny.wx) ∧ refFir [1, -2] [[1, -2], [0]].flatten = some [1, -4, 4] := by decide

/-- BatchFfaEqualsReferenceFir: an odd number of taps and of samples (X-2), and the batch form's answer there. -/
theorem witness_batch : refFir [1, -1, 2, -2, 3] [4, 0, -4, 1, 1] = some [4, -4, 4, -3, 4] ∧
    ffaBatch [1, -1, 2, -2, 3] [4, 0, -4, 1, 1] = .ok [4, -4, 4, -3, 4] := by decide

/-! #### Functions of the spec beside the block -/

/-- SplitMergeBijection and MergeFailsExactlyOnInvalidLanes: lanes that merge (equal, and shorter by one at the end) and lanes
that do not (shorter by two, and growing). -/
theorem witness_merge : merge [[1], [2]] = .ok [1, 2] ∧
    (([[1, 3], [2]].map (List.length (α := Int))).Pairwise (fun a b => b ≤ a) ∧ 2 ≤ 1 + 1) ∧
    ¬ (([[1, 2, 3], [4]].map (List.length (α := Int))).Pairwise (fun a b => b ≤ a) ∧ 3 ≤ 1 + 1) ∧
    ¬ (([[1], [2, 3]].map (List.length (α := Int))).Pairwise (fun a b => b ≤ a) ∧ 1 ≤ 2 + 1) := by decide

/-- AdapterRange: taps that are all zero, no taps, and two taps of maximum magnitude with different signs, at the least width. -/
theorem witness_adapter : (1 ≤ 1) ∧ (∀ t ∈ [(0 : ℚ)], t = 0) ∧ (∀ t ∈ ([] : List ℚ), t = 0) ∧
    (∃ t ∈ [(1 : ℚ), -1], t ≠ 0) ∧ 1 < [(1 : ℚ), -1].length ∧
    ∀ t ∈ [(1 : ℚ), -1], |t| ≤ |[(1 : ℚ), -1].getD 1 0| := by
  refine ⟨le_rfl, by simp, by simp, ⟨1, by simp, one_ne_zero⟩, by simp, by simp⟩

end Sys2Proof.Tests
end

section
/-! Construction of the block and its refusal (00_scope.md R6, R9). -/

namespace Sys2Proof.Machine

open Sys2Proof

theorem State.elaborate_of_legal {p : Params} (h : p.Legal) : State.elaborate p = .ok (State.atReset p) := if_pos h

theorem State.elaborate_of_illegal {p : Params} (h : ¬ p.Legal) : State.elaborate p = .error .illegalParameters := if_neg h

/-- Settles O14: the two cases of construction, and the step lemma `step_of_illegal` for a state that no construction yields. -/
theorem illegalParametersAreRefused : Obligations.IllegalParametersAreRefused :=
  ⟨fun _ => State.elaborate_of_illegal, fun _ => State.elaborate_of_legal, fun _ => step_of_illegal⟩

end Sys2Proof.Machine
end

section
/-! What a command can do, said once: it raises an error that applies, or it takes the effect of its row of
30_encoding.md R305 and answers OK. -/

namespace Sys2Proof.Machine

open Sys2Proof

theorem Mode.ne_config_iff {m : Mode} : m ≠ .config ↔ m = .run := by cases m <;> decide

theorem Mode.ne_run_iff {m : Mode} : m ≠ .run ↔ m = .config := by cases m <;> decide

/-- `Effect s i u`: command i passes its checks in state s, and u is s with the command's effect, but for the response. -/
inductive Effect (s : State) : Instr → State → Prop where
  | nop : Effect s .nop s
  | setn {n : Nat} (mode : s.mode = .config) (pos : 1 ≤ n) (le : n ≤ s.params.nmax) :
      Effect s (.setn n) { s with ntaps := n, cptr := 0, coef := List.replicate s.params.nmax 0 }
  | ldc {c : Int} (mode : s.mode = .config) (space : s.cptr ≠ s.ntaps) (range : InRangeS c s.params.wc) :
      Effect s (.ldc c) { s with coef := s.coef.set s.cptr c, cptr := s.cptr + 1 }
  | setl (mode : s.mode = .config) : Effect s (.setl 2) s
  | start (mode : s.mode = .config) (taps : s.ntaps ≠ 0) (loaded : s.cptr = s.ntaps) :
      Effect s .start { s.deriveLaneSet.clearFs with mode := .run }
  | stop (mode : s.mode = .run) (closed : s.blkRemain = 0) : Effect s .stop { s.clearFs with mode := .config }
  | init (mode : s.mode = .run) (closed : s.blkRemain = 0) : Effect s .init s.clearFs
  | block {m : Nat} (mode : s.mode = .run) (closed : s.blkRemain = 0) (pos : m ≠ 0) :
      Effect s (.block m) { s with blkRemain := BitVec.ofNat 32 m }
  | push {x : Int} (mode : s.mode = .run) (opened : s.blkRemain ≠ 0) (range : InRangeS x s.params.wx) :
      Effect s (.push x) (s.laneStep x).advance
  | read {sel : Nat} (le : sel ≤ 12) : Effect s (.read sel) s
  | rdc {k : Nat} (lt : k < s.params.nmax) : Effect s (.rdc k) s
  | clrerr : Effect s .clrerr { s with lastErr := 0 }

/-- What a command that answers t has done: raised an error that applies, or taken its effect and answered OK. -/
def Completes (i : Instr) (s t : State) : Prop :=
  (∃ e, Applies e i s ∧ t = s.raised e) ∨
  (∃ u d, Effect s i u ∧ d < 2 ^ s.params.wrsp ∧ t = { u with rsp := some { err := 0, data := d } })

variable {i : Instr} {s t u : State}

theorem Completes.of_raised {e : Err} (ha : Applies e i s) (h : Host.Outcome.next (s.raised e) = (.next t : Result)) :
    Completes i s t := .inl ⟨e, ha, (Host.Outcome.next.inj h).symm⟩

theorem Completes.of_effect {d : Nat} (he : Effect s i u) (hd : d < 2 ^ s.params.wrsp)
    (h : Host.Outcome.next { u with rsp := some { err := 0, data := d } } = (.next t : Result)) : Completes i s t :=
  .inr ⟨u, d, he, hd, (Host.Outcome.next.inj h).symm⟩

theorem unsignedData_lt (s : State) (d : Nat) : unsignedData s d < 2 ^ s.params.wrsp := unsignedPattern_lt _ _

theorem signedData_lt (s : State) (d : Int) : signedData s d < 2 ^ s.params.wrsp := signedPattern_lt _ _

/-- The data pattern of every view fits the response port. -/
theorem view_lt {sel d : Nat} (h : view s sel = some d) : d < 2 ^ s.params.wrsp := by
  unfold view at h
  split at h <;> cases h <;> simp only [unsignedData_lt, signedData_lt]

/-- Every answer of every command, one case per command and per branch of its checks. -/
theorem exec_completes (h : exec i s = .next t) : Completes i s t := by
  have zero_fits : 0 < 2 ^ s.params.wrsp := by positivity
  cases i with
  | nop => exact .of_effect .nop zero_fits h
  | setn n =>
    rw [exec_setn] at h
    split_ifs at h with hm ha
    · exact .of_raised (e := .mode) (Mode.ne_config_iff.mp hm) h
    · exact .of_raised (e := .arg) (ha.imp_left Nat.lt_one_iff.mp) h
    · exact .of_effect (.setn (not_not.mp hm) (by omega) (by omega)) zero_fits h
  | ldc c =>
    rw [exec_ldc] at h
    split_ifs at h with hm hf ha
    · exact .of_raised (e := .mode) (Mode.ne_config_iff.mp hm) h
    · exact .of_raised (e := .coefFull) hf h
    · exact .of_effect (.ldc (not_not.mp hm) hf ha) zero_fits h
    · exact .of_raised (e := .arg) ha h
  | setl l =>
    rw [exec_setl] at h
    split_ifs at h with hm hl
    · exact .of_raised (e := .mode) (Mode.ne_config_iff.mp hm) h
    · exact .of_raised (e := .laneCount) hl h
    · obtain rfl := not_not.mp hl
      exact .of_effect (.setl (not_not.mp hm)) zero_fits h
  | start =>
    rw [exec_start] at h
    split_ifs at h with hm hc
    · exact .of_raised (e := .mode) (Mode.ne_config_iff.mp hm) h
    · exact .of_raised (e := .coefIncomplete) hc h
    · obtain ⟨htaps, hloaded⟩ := not_or.mp hc
      exact .of_effect (.start (not_not.mp hm) htaps (not_not.mp hloaded)) zero_fits h
  | stop =>
    rw [exec_stop] at h
    split_ifs at h with hm hb
    · exact .of_raised (e := .mode) (Mode.ne_run_iff.mp hm) h
    · exact .of_raised (e := .busy) hb h
    · exact .of_effect (.stop (not_not.mp hm) (not_not.mp hb)) zero_fits h
  | init =>
    rw [exec_init] at h
    split_ifs at h with hm hb
    · exact .of_raised (e := .mode) (Mode.ne_run_iff.mp hm) h
    · exact .of_raised (e := .busy) hb h
    · exact .of_effect (.init (not_not.mp hm) (not_not.mp hb)) zero_fits h
  | block m =>
    rw [exec_block] at h
    split_ifs at h with hm hb hz
    · exact .of_raised (e := .mode) (Mode.ne_run_iff.mp hm) h
    · exact .of_raised (e := .busy) hb h
    · exact .of_raised (e := .emptyInput) hz h
    · exact .of_effect (.block (not_not.mp hm) (not_not.mp hb) hz) zero_fits h
  | push x =>
    rw [exec_push] at h
    split_ifs at h with hm hb ha
    · exact .of_raised (e := .mode) (Mode.ne_run_iff.mp hm) h
    · exact .of_raised (e := .noBlock) hb h
    · exact .of_effect (.push (not_not.mp hm) hb ha) (signedPattern_lt _ _) h
    · exact .of_raised (e := .arg) ha h
  | read sel =>
    cases hv : view s sel with
    | none => exact .of_raised (e := .arg) ((view_eq_none_iff s sel).mp hv) (exec_read_none hv ▸ h)
    | some d =>
      have hle : sel ≤ 12 := not_lt.mp fun hlt => by simp [(view_eq_none_iff s sel).mpr hlt] at hv
      exact .of_effect (.read hle) (view_lt hv) (exec_read_view hv ▸ h)
  | rdc k =>
    rw [exec_rdc] at h
    split_ifs at h with ha
    · exact .of_raised (e := .arg) ha h
    · exact .of_effect (.rdc (not_le.mp ha)) (signedPattern_lt _ _) h
  | clrerr => exact .of_effect .clrerr (unsignedPattern_lt _ _) h

/-- The codes a command can raise are 1 to 9 (60_exceptions.md R1001): code 10 is never raised. -/
theorem code_le_nine_of_applies {e : Err} (h : Applies e i s) : e.code.toNat ≤ 9 := by
  cases e
  case lengthMismatch => exact h.elim
  all_goals decide

theorem not_applies_clrerr (e : Err) (s : State) : ¬ Applies e .clrerr s := by cases e <;> exact id

/-- All that a command can change beside `last_err` and the response is its effect: the form the frame claims use. -/
theorem exec_changes (h : exec i s = .next t) :
    ∃ u c r, (u = s ∨ Effect s i u) ∧ t = { u with lastErr := c, rsp := r } := by
  obtain ⟨e, -, rfl⟩ | ⟨u, d, he, -, rfl⟩ := exec_completes h
  · exact ⟨s, _, _, .inl rfl, rfl⟩
  · exact ⟨u, _, _, .inr he, rfl⟩

end Sys2Proof.Machine
end

section
/-! Which commands write which elements of the state (10_state.md R103 to R114), each from what a command can do. -/

namespace Sys2Proof.Machine

open Sys2Proof

variable {i : Instr} {s u : State}

theorem Effect.mode_cases (h : Effect s i u) :
    u.mode = s.mode ∨ (i = .start ∧ s.mode = .config ∧ u.mode = .run) ∨
      (i = .stop ∧ s.mode = .run ∧ u.mode = .config) := by
  cases h
  case start hm _ _ => exact .inr (.inl ⟨rfl, hm, rfl⟩)
  case stop hm _ => exact .inr (.inr ⟨rfl, hm, rfl⟩)
  all_goals exact .inl (by simp)

/-- Settles O23: an error leaves mode as it is, and of the effects only START's and STOP's write it. -/
theorem onlyStartAndStopChangeMode : Obligations.OnlyStartAndStopChangeMode := by
  intro i s t h hne
  obtain ⟨u, c, r, rfl | he, rfl⟩ := exec_changes h
  · exact absurd rfl hne
  · exact he.mode_cases.resolve_left hne

/-- Only SETN and LDC write the elements that hold the coefficients. -/
theorem Effect.coefficients_eq (h : Effect s i u) (hsetn : ∀ n, i ≠ .setn n) (hldc : ∀ c, i ≠ .ldc c) :
    u.ntaps = s.ntaps ∧ u.cptr = s.cptr ∧ u.coef = s.coef := by
  cases h
  case setn => exact absurd rfl (hsetn _)
  case ldc => exact absurd rfl (hldc _)
  all_goals simp

/-- Settles O24: SETN and LDC write what their effects say, and no other command writes these elements. -/
theorem coefficientWriters : Obligations.CoefficientWriters := by
  intro i s t h
  obtain ⟨u, c, r, rfl | he, rfl⟩ := exec_changes h
  · exact ⟨absurd rfl, absurd rfl, absurd rfl⟩
  by_cases hw : (∀ n, i ≠ .setn n) ∧ (∀ c, i ≠ .ldc c)
  · obtain ⟨hntaps, hcptr, hcoef⟩ := he.coefficients_eq hw.1 hw.2
    exact ⟨absurd hntaps, absurd hcptr, absurd hcoef⟩
  · cases he
    case setn n hm hpos hle =>
      exact ⟨fun _ => ⟨hm, rfl, hpos, hle⟩, fun _ => ⟨hm, .inl ⟨n, rfl, rfl⟩⟩,
        fun _ => ⟨hm, .inl ⟨n, rfl, elem_replicate_zero _⟩⟩⟩
    case ldc c hm _ _ =>
      exact ⟨absurd rfl, fun _ => ⟨hm, .inr ⟨c, rfl, rfl⟩⟩,
        fun _ => ⟨hm, .inr ⟨c, rfl, fun k hk => by simp [elem_set, hk]⟩⟩⟩
    all_goals simp at hw

theorem Effect.laneSet_eq (h : Effect s i u) (hne : i ≠ .start) : u.h0 = s.h0 ∧ u.h1 = s.h1 ∧ u.hs = s.hs := by
  cases h
  case start => exact absurd rfl hne
  all_goals simp

/-- Settles O25: an error leaves the LaneSet as it is, and of the effects only START's derives it. -/
theorem onlyStartWritesLaneSet : Obligations.OnlyStartWritesLaneSet := by
  intro i s t h hne
  obtain ⟨u, c, r, rfl | he, rfl⟩ := exec_changes h
  · exact ⟨rfl, rfl, rfl⟩
  · exact he.laneSet_eq hne

/-- Settles O26: BLOCK writes `blk_remain`, PUSH steps the lane of its phase, and the rest write nothing of the filter
state. -/
theorem filterStateWriters : Obligations.FilterStateWriters := by
  intro i s t h hstart hstop hinit
  obtain ⟨u, c, r, rfl | he, rfl⟩ := exec_changes h
  · simp
  cases he
  case start => exact absurd rfl hstart
  case stop => exact absurd rfl hstop
  case init => exact absurd rfl hinit
  case block m _ _ _ => exact ⟨fun hb => absurd rfl (hb m), by simp⟩
  case push x _ _ _ =>
    refine ⟨fun _ hx => absurd rfl (hx x), fun hx => absurd rfl (hx x), fun hp => ?_, fun hp => ?_⟩
    · simp [State.laneStep_lane0 s x hp]
    · simp [State.laneStep_lane1 s x hp]
  all_goals simp

theorem Effect.lastErr_eq (h : Effect s i u) (hne : i ≠ .clrerr) : u.lastErr = s.lastErr := by
  cases h
  case clrerr => exact absurd rfl hne
  all_goals simp

/-- Only legal parameters have a step (00_scope.md R9). -/
theorem legal_of_step {t : State} (h : step s = .next t) : s.params.Legal := by
  by_contra hl
  cases step_of_illegal hl ▸ h

/-- Settles O18: the two ways a command can complete, the words that are no command, and the reset edge. -/
theorem lastErrIsSticky : Obligations.LastErrIsSticky := by
  refine ⟨fun i s t r h hr => ?_, fun w s t x hx h => ?_, fun s t e rest hhost hrst h => ?_⟩
  · obtain ⟨e, ha, rfl⟩ | ⟨u, d, he, -, rfl⟩ := exec_completes h <;> obtain rfl := Option.some.inj hr
    · exact ⟨fun _ => rfl, fun h0 => absurd h0 e.code_ne_zero, fun hi => absurd (hi ▸ ha) (not_applies_clrerr e s)⟩
    · refine ⟨absurd rfl, fun _ => he.lastErr_eq, fun hi => ?_⟩
      subst hi
      cases he
      rfl
  · rw [execWord_of_error s hx] at h
    cases h
    rfl
  · rw [step_of_edge (legal_of_step h) hhost, atEdge_reset _ hrst] at h
    cases h
    rfl

end Sys2Proof.Machine
end

section
/-! The STATUS view (10_state.md R117). -/

namespace Sys2Proof.Machine

open Sys2Proof

theorem Mode.bit_eq_toNat (m : Mode) : m.bit = (decide (m = .run)).toNat := by cases m <;> rfl

theorem Lane.bit_eq_toNat (l : Lane) : l.bit = (decide (l = .lane1)).toNat := by cases l <;> rfl

/-- The STATUS view as the four flags, lowest first, in front of `last_err`. -/
theorem statusView_eq_bits (s : State) : statusView s =
    Nat.bit (decide (s.mode = .run)) (Nat.bit (decide (s.phase = .lane1))
      (Nat.bit (blkActive s) (Nat.bit (cfgDone s) s.lastErr.toNat))) := by
  simp only [statusView, Mode.bit_eq_toNat, Lane.bit_eq_toNat, Nat.bit_val]
  ring

/-- Settles O40: each flag is the bit in front of the ones above it; from bit 4 on STATUS is `last_err`, 4 bits wide. -/
theorem statusFields : Obligations.StatusFields := by
  refine ⟨fun s b => ?_, by decide⟩
  rw [statusView_eq_bits]
  match b with
  | 0 => simp
  | 1 => simp [Nat.testBit_bit_succ]
  | 2 => simp [Nat.testBit_bit_succ, blkActive]
  | 3 => simp [Nat.testBit_bit_succ, cfgDone]
  | k + 4 =>
    have field : (statusView s).testBit (k + 4) = s.lastErr.getLsbD k := by
      simp only [statusView_eq_bits, Nat.testBit_bit_succ, BitVec.testBit_toNat]
    rw [← statusView_eq_bits, field]
    by_cases hk : k < 4
    · simp [hk, show k + 4 < 8 by omega]
    · simp [show ¬ k + 4 < 8 by omega, BitVec.getLsbD_of_ge _ _ (not_lt.mp hk)]

end Sys2Proof.Machine
end

section
/-! The widths of the register files and of the MAC results (10_state.md R115 item 6; 42_ffa_datapath.md R505). -/

namespace Sys2Proof.Machine

open Sys2Proof

theorem forall_mem_replicate_zero (n w : Nat) : ∀ v ∈ List.replicate n (0 : Int), InRangeS v w :=
  fun _ hv => List.eq_of_mem_replicate hv ▸ inRangeS_zero w

theorem forall_mem_shiftIn {v : Int} {l : List Int} {w : Nat} (hv : InRangeS v w) (hl : ∀ y ∈ l, InRangeS y w) :
    ∀ y ∈ shiftIn v l, InRangeS y w :=
  fun y hy => (mem_shiftIn hy).elim (fun h => h ▸ hv) (hl y)

theorem inRangeS_elem {l : List Int} {w : Nat} (hl : ∀ v ∈ l, InRangeS v w) (i : Nat) : InRangeS (elem l i) w :=
  (elem_mem_or_zero l i).elim (hl _) fun h => h ▸ inRangeS_zero w

theorem forall_mem_of_elem {l : List Int} {w : Nat} (h : ∀ i, InRangeS (elem l i) w) : ∀ v ∈ l, InRangeS v w := by
  intro v hv
  obtain ⟨i, hi, rfl⟩ := List.mem_iff_getElem.mp hv
  exact elem_eq_getElem l i hi ▸ h i

variable {p : Params} {coef : List Int}

theorem inRangeS_lane0Taps {w : Nat} (n : Nat) (h : ∀ c ∈ coef, InRangeS c w) :
    ∀ c ∈ lane0Taps p n coef, InRangeS c w := by
  refine forall_mem_of_elem fun j => ?_
  rw [elem_lane0Taps]
  split_ifs
  · exact inRangeS_elem h _
  all_goals exact inRangeS_zero w

theorem inRangeS_lane1Taps {w : Nat} (n : Nat) (h : ∀ c ∈ coef, InRangeS c w) :
    ∀ c ∈ lane1Taps p n coef, InRangeS c w := by
  refine forall_mem_of_elem fun j => ?_
  rw [elem_lane1Taps]
  split_ifs
  · exact inRangeS_elem h _
  all_goals exact inRangeS_zero w

/-- The sum taps need one bit more than the taps (42_ffa_datapath.md R505). -/
theorem inRangeS_sumTaps {w : Nat} (hw : 1 ≤ w) {h0 h1 : List Int} (hh0 : ∀ c ∈ h0, InRangeS c w)
    (hh1 : ∀ c ∈ h1, InRangeS c w) : ∀ c ∈ sumTaps p h0 h1, InRangeS c (w + 1) := by
  refine forall_mem_of_elem fun j => ?_
  rw [elem_sumTaps]
  split_ifs
  · exact inRangeS_add hw (inRangeS_elem hh0 j) (inRangeS_elem hh1 j)
  · exact inRangeS_add hw (inRangeS_elem hh0 j) (inRangeS_zero w)
  · exact inRangeS_zero _

end Sys2Proof.Machine
end

section
/-! What keeps the parts of the invariants: the sizes, the widths, the clear filter state (10_state.md R102, R115). -/

namespace Sys2Proof.Machine

open Sys2Proof

variable {s : State} {x : Int}

theorem Sized.clearFs (h : Sized s) : Sized s.clearFs := by
  constructor <;> simp [h.coef, h.h0, h.h1, h.hs]

theorem Sized.deriveLaneSet (h : Sized s) : Sized s.deriveLaneSet := by
  constructor <;> simp [h.coef, h.xh0, h.xh1, h.xhs]

theorem Sized.laneStep (h : Sized s) (x : Int) : Sized (s.laneStep x) := by
  cases hp : s.phase with
  | lane0 => rw [State.laneStep_lane0 s x hp]; constructor <;> simp [h.coef, h.h0, h.h1, h.hs, h.xh0, h.xh1, h.xhs]
  | lane1 => rw [State.laneStep_lane1 s x hp]; constructor <;> simp [h.coef, h.h0, h.h1, h.hs, h.xh0, h.xh1, h.xhs]

theorem InWidths.clearFs (h : InWidths s) : InWidths s.clearFs := { h with
  xh0 := forall_mem_replicate_zero _ _
  xh1 := forall_mem_replicate_zero _ _
  xhs := forall_mem_replicate_zero _ _
  align := inRangeS_zero _
  a0hold := inRangeS_zero _ }

theorem InWidths.deriveLaneSet (h : InWidths s) (hl : s.params.Legal) : InWidths s.deriveLaneSet := { h with
  h0 := inRangeS_lane0Taps _ h.coef
  h1 := inRangeS_lane1Taps _ h.coef
  hs := by
    obtain ⟨-, -, -, hwc, -⟩ := hl
    have hw : 1 ≤ s.params.wc := by omega
    exact inRangeS_sumTaps hw (inRangeS_lane0Taps _ h.coef) (inRangeS_lane1Taps _ h.coef) }

theorem InWidths.step0 (h : InWidths s) (hl : s.params.Legal) (hx : InRangeS x s.params.wx) :
    InWidths (s.step0 x) := { h with
  xh0 := forall_mem_shiftIn hx h.xh0
  a0hold := inRangeS_mac hl le_rfl h.h0 (forall_mem_shiftIn hx h.xh0) }

/-- The input pre-adder's sum needs one bit more than the samples (42_ffa_datapath.md R505). -/
theorem InWidths.preAdd (h : InWidths s) (hl : s.params.Legal) (hx : InRangeS x s.params.wx) :
    InRangeS (preAdd s x) (s.params.wx + 1) := by
  obtain ⟨-, -, -, -, -, hwx, -⟩ := hl
  exact inRangeS_add (by omega) (inRangeS_elem h.xh0 0) hx

theorem InWidths.step1 (h : InWidths s) (hl : s.params.Legal) (hx : InRangeS x s.params.wx) :
    InWidths (s.step1 x) := { h with
  xh1 := forall_mem_shiftIn hx h.xh1
  xhs := forall_mem_shiftIn (h.preAdd hl hx) h.xhs
  align := inRangeS_mac hl s.params.k1_le_k0 h.h1 (forall_mem_shiftIn hx h.xh1) }

theorem InWidths.laneStep (h : InWidths s) (hl : s.params.Legal) (hx : InRangeS x s.params.wx) :
    InWidths (s.laneStep x) := by
  cases hp : s.phase with
  | lane0 => exact State.laneStep_lane0 s x hp ▸ h.step0 hl hx
  | lane1 => exact State.laneStep_lane1 s x hp ▸ h.step1 hl hx

theorem filterStateClear_clearFs (s : State) : FilterStateClear s.clearFs where
  phase := rfl
  blkRemain := rfl
  scount := rfl
  align := rfl
  a0hold := rfl
  xh0 := fun _ => List.eq_of_mem_replicate
  xh1 := fun _ => List.eq_of_mem_replicate
  xhs := fun _ => List.eq_of_mem_replicate

theorem runConfigured_deriveLaneSet (htaps : 1 ≤ s.ntaps) (hloaded : s.cptr = s.ntaps) :
    RunConfigured s.deriveLaneSet where
  taps := htaps
  loaded := hloaded
  h0 := rfl
  h1 := rfl
  hs := rfl

/-- The low bit of `scount` counts modulo 2 through the wrap at 2^32 (10_state.md R113). -/
theorem Lane.bit_next_eq_count {l : Lane} {c : Count} (h : l.bit = c.toNat % 2) : l.next.bit = (c + 1).toNat % 2 := by
  rw [Lane.bit_next, h, BitVec.toNat_add, show (1 : Count).toNat = 1 from rfl]
  omega

end Sys2Proof.Machine
end

section
/-! The invariants of 10_state.md R115: they hold at reset, and every effect, every command and every step keeps them. -/

namespace Sys2Proof.Machine

open Sys2Proof

variable {i : Instr} {s t u : State}

/-- Settles O21: every register is 0, so it fits any width, and the filter state is clear. -/
theorem everyElaborationStartsInInvariants : Obligations.EveryElaborationStartsInInvariants := fun p hp => {
  legal := hp
  sized := by constructor <;> simp
  cptr_le := le_rfl
  ntaps_le := Nat.zero_le _
  coef_beyond := fun k _ => elem_replicate_zero _ k
  run := nofun
  config := fun _ => filterStateClear_clearFs (State.atReset p)
  phase := rfl
  widths := {
    coef := forall_mem_replicate_zero _ _
    h0 := forall_mem_replicate_zero _ _
    h1 := forall_mem_replicate_zero _ _
    hs := forall_mem_replicate_zero _ _
    xh0 := forall_mem_replicate_zero _ _
    xh1 := forall_mem_replicate_zero _ _
    xhs := forall_mem_replicate_zero _ _
    align := inRangeS_zero _
    a0hold := inRangeS_zero _ }
  lastErr := Nat.zero_le _
  response := nofun }

/-- Settles O20: the reference configuration is a legal elaboration. -/
theorem resetStateHasInvariants : Obligations.ResetStateHasInvariants :=
  everyElaborationStartsInInvariants Params.reference (by decide)

/-! ### Answers and the host's edges -/

/-- Of `last_err` and the response the invariants ask that they hold codes 0 to 9 and answers of R310's form; of the host's
coming edges they ask nothing. -/
theorem Inv.with_answer (h : Inv s) {c : Code} {r : Option Response} (edges : List Edge) (hc : c.toNat ≤ 9)
    (hr : ∀ a, r = some a → a.err.toNat ≤ 9 ∧ a.data < 2 ^ s.params.wrsp ∧ (a.err ≠ 0 → a.data = 0)) :
    Inv { s with lastErr := c, rsp := r, host := edges } := { h with
  sized := { h.sized with }
  run := fun hm => { h.run hm with }
  config := fun hm => { h.config hm with }
  widths := { h.widths with }
  lastErr := hc
  response := hr }

theorem Inv.host (h : Inv s) (edges : List Edge) : Inv { s with host := edges } :=
  h.with_answer edges h.lastErr h.response

theorem Inv.rsp_none (h : Inv s) : Inv { s with rsp := none } := h.with_answer s.host h.lastErr nofun

theorem Inv.raised (h : Inv s) {e : Err} (he : e.code.toNat ≤ 9) : Inv (s.raised e) := by
  refine h.with_answer s.host he fun a ha => ?_
  obtain rfl := Option.some.inj ha
  exact ⟨he, by positivity, fun _ => rfl⟩

theorem Inv.respond (h : Inv s) {d : Nat} (hd : d < 2 ^ s.params.wrsp) :
    Inv { s with rsp := some { err := 0, data := d } } := by
  refine h.with_answer s.host h.lastErr fun a ha => ?_
  obtain rfl := Option.some.inj ha
  exact ⟨Nat.zero_le _, hd, absurd rfl⟩

/-! ### Effects -/

theorem Inv.setn (h : Inv s) (hm : s.mode = .config) {n : Nat} (hn : n ≤ s.params.nmax) :
    Inv { s with ntaps := n, cptr := 0, coef := List.replicate s.params.nmax 0 } := { h with
  sized := { h.sized with coef := List.length_replicate }
  cptr_le := Nat.zero_le _
  ntaps_le := hn
  coef_beyond := fun k _ => elem_replicate_zero _ k
  run := fun hr => nomatch hm.symm.trans hr
  config := fun hc => { h.config hc with }
  widths := { h.widths with coef := forall_mem_replicate_zero _ _ } }

/-- LDC writes below `ntaps` because there is a tap left to load. -/
theorem Inv.ldc (h : Inv s) (hm : s.mode = .config) (hspace : s.cptr ≠ s.ntaps) {c : Int} (hc : InRangeS c s.params.wc) :
    Inv { s with coef := s.coef.set s.cptr c, cptr := s.cptr + 1 } := by
  have hlt : s.cptr < s.ntaps := lt_of_le_of_ne h.cptr_le hspace
  exact { h with
    sized := { h.sized with coef := by simp [h.sized.coef] }
    cptr_le := hlt
    coef_beyond := fun k (hk : s.ntaps ≤ k) => by
      have hne : k ≠ s.cptr := by omega
      rw [elem_set, if_neg fun hw => hne hw.1, h.coef_beyond k hk]
    run := fun hr => nomatch hm.symm.trans hr
    config := fun hc' => { h.config hc' with }
    widths := { h.widths with
      coef := fun v hv => (List.mem_or_eq_of_mem_set hv).elim (h.widths.coef v) fun hvc => hvc ▸ hc } }

theorem Inv.clearFs (h : Inv s) : Inv s.clearFs := { h with
  sized := h.sized.clearFs
  run := fun hm => { h.run hm with }
  config := fun _ => filterStateClear_clearFs s
  phase := rfl
  widths := h.widths.clearFs }

theorem Inv.deriveLaneSet (h : Inv s) : Inv s.deriveLaneSet := { h with
  sized := h.sized.deriveLaneSet
  run := fun hm => runConfigured_deriveLaneSet (h.run hm).taps (h.run hm).loaded
  config := fun hm => { h.config hm with }
  widths := h.widths.deriveLaneSet h.legal }

/-- A mode can be entered once what R115 asks in that mode holds. -/
theorem Inv.with_mode (h : Inv s) {m : Mode} (hrun : m = .run → RunConfigured s)
    (hconfig : m = .config → FilterStateClear s) : Inv { s with mode := m } := { h with
  sized := { h.sized with }
  run := fun hm => { hrun hm with }
  config := fun hm => { hconfig hm with }
  widths := { h.widths with } }

theorem Inv.start (h : Inv s) (htaps : s.ntaps ≠ 0) (hloaded : s.cptr = s.ntaps) :
    Inv { s.deriveLaneSet.clearFs with mode := .run } :=
  h.deriveLaneSet.clearFs.with_mode
    (fun _ => { runConfigured_deriveLaneSet (Nat.one_le_iff_ne_zero.mpr htaps) hloaded with }) nofun

theorem Inv.stop (h : Inv s) : Inv { s.clearFs with mode := .config } :=
  h.clearFs.with_mode nofun fun _ => filterStateClear_clearFs s

theorem Inv.block (h : Inv s) (hm : s.mode = .run) (b : Count) : Inv { s with blkRemain := b } := { h with
  sized := { h.sized with }
  run := fun hr => { h.run hr with }
  config := fun hc => nomatch hm.symm.trans hc
  widths := { h.widths with } }

theorem RunConfigured.laneStep (h : RunConfigured s) (x : Int) : RunConfigured (s.laneStep x) := by
  obtain ⟨htaps, hloaded, hh0, hh1, hhs⟩ := h
  constructor <;> simpa

theorem Inv.laneStep (h : Inv s) (hm : s.mode = .run) {x : Int} (hx : InRangeS x s.params.wx) : Inv (s.laneStep x) where
  legal := by simpa using h.legal
  sized := h.sized.laneStep x
  cptr_le := by simpa using h.cptr_le
  ntaps_le := by simpa using h.ntaps_le
  coef_beyond := by simpa using h.coef_beyond
  run := fun _ => (h.run hm).laneStep x
  config := fun hc => by simp [hm] at hc
  phase := by simpa using h.phase
  widths := h.widths.laneStep h.legal hx
  lastErr := by simpa using h.lastErr
  response := by simpa using h.response

/-- Phase and `scount` step together, so the phase stays the parity of the sample count. -/
theorem Inv.advance (h : Inv s) (hm : s.mode = .run) : Inv s.advance := { h with
  sized := { h.sized with }
  run := fun hr => { h.run hr with }
  config := fun hc => nomatch hm.symm.trans hc
  phase := Lane.bit_next_eq_count h.phase
  widths := { h.widths with } }

theorem Inv.effect (h : Inv s) (he : Effect s i u) : Inv u := by
  cases he with
  | nop | setl | read | rdc => exact h
  | setn hm _ hle => exact h.setn hm hle
  | ldc hm hspace hc => exact h.ldc hm hspace hc
  | start _ htaps hloaded => exact h.start htaps hloaded
  | stop => exact h.stop
  | init => exact h.clearFs
  | block hm => exact h.block hm _
  | push hm _ hx => exact (h.laneStep hm hx).advance (by simpa using hm)
  | clrerr => exact h.with_answer s.host (Nat.zero_le _) h.response

/-! ### Commands and steps -/

theorem Effect.params_eq (h : Effect s i u) : u.params = s.params := by cases h <;> simp

theorem Inv.exec (h : Inv s) (he : exec i s = .next t) : Inv t := by
  obtain ⟨e, ha, rfl⟩ | ⟨u, d, hu, hd, rfl⟩ := exec_completes he
  · exact h.raised (code_le_nine_of_applies ha)
  · exact (h.effect hu).respond (hu.params_eq ▸ hd)

theorem Inv.execWord (h : Inv s) {w : Word} (hw : execWord w s = .next t) : Inv t := by
  cases hd : decode w with
  | ok i => exact h.exec (execWord_of_ok s hd ▸ hw)
  | error x =>
    obtain rfl := Host.Outcome.next.inj (execWord_of_error s hd ▸ hw)
    exact h.raised (by decide)

theorem Inv.resetEdge (h : Inv s) : Inv s.resetEdge :=
  (everyElaborationStartsInInvariants s.params h.legal).host s.host

theorem Inv.atEdge (h : Inv s) {e : Edge} (he : atEdge e s = .next t) : Inv t := by
  obtain ⟨-, hreset⟩ | ⟨-, -, -, hdeliver⟩ | ⟨-, -, -, hhold⟩ | ⟨-, -, -, hcommand⟩ | ⟨-, -, -, hidle⟩ :=
    atEdge_cases e s
  · exact Host.Outcome.next.inj (hreset ▸ he) ▸ h.resetEdge
  · exact Host.Outcome.next.inj (hdeliver ▸ he) ▸ h.rsp_none
  · exact Host.Outcome.next.inj (hhold ▸ he) ▸ h
  · exact h.execWord (hcommand ▸ he)
  · exact Host.Outcome.next.inj (hidle ▸ he) ▸ h

/-- Settles O22: the clock stands still, or the host's next edge keeps the invariants whatever it carries. -/
theorem everyStepKeepsInvariants : Obligations.EveryStepKeepsInvariants := by
  intro s t h hstep
  cases hhost : s.host with
  | nil => exact Host.Outcome.next.inj (step_of_no_edge h.legal hhost ▸ hstep) ▸ h
  | cons e rest => exact (h.host rest).atEdge (step_of_edge h.legal hhost ▸ hstep)

end Sys2Proof.Machine
end

section
/-! The bus wrapper's byte order (20_memory.md R202), bit by bit: which bit of a word each bit of a byte is, in both
directions. -/

namespace Sys2Proof

@[simp] theorem length_bytesOfWord (w : Word) : (bytesOfWord w).length = 8 := by simp [bytesOfWord]

theorem getD_bytesOfWord (w : Word) {i : Nat} (hi : i < 8) : (bytesOfWord w).getD i 0 = w.extractLsb' (8 * i) 8 := by
  simp [bytesOfWord, hi]

theorem getLsbD_bytesOfWord (w : Word) {i b : Nat} (hi : i < 8) (hb : b < 8) :
    ((bytesOfWord w).getD i 0).getLsbD b = w.getLsbD (8 * i + b) := by
  rw [getD_bytesOfWord w hi, BitVec.getLsbD_extractLsb', decide_eq_true hb, Bool.true_and]

/-- A byte in front moves the others up by eight places, for any number of bytes: what exceeds the word is lost. -/
theorem getLsbD_wordOfBytes (bs : List Byte) {k : Nat} (hk : k < 64) :
    (wordOfBytes bs).getLsbD k = (bs.getD (k / 8) 0).getLsbD (k % 8) := by
  induction bs generalizing k with
  | nil => simp [wordOfBytes]
  | cons b bs ih =>
    rw [wordOfBytes, BitVec.getLsbD_or, BitVec.getLsbD_shiftLeft, BitVec.getLsbD_setWidth]
    by_cases h8 : k < 8
    · simp [h8, hk, Nat.div_eq_of_lt h8, Nat.mod_eq_of_lt h8]
    · have hquot : k / 8 = (k - 8) / 8 + 1 := by omega
      have hrem : k % 8 = (k - 8) % 8 := by omega
      rw [ih (show k - 8 < 64 by omega), BitVec.getLsbD_of_ge b k (not_lt.mp h8), hquot, hrem, List.getD_cons_succ]
      simp [h8, hk]

theorem wordOfBytes_bytesOfWord (w : Word) : wordOfBytes (bytesOfWord w) = w := by
  apply BitVec.eq_of_getLsbD_eq
  intro k hk
  rw [getLsbD_wordOfBytes _ hk, getLsbD_bytesOfWord w (Nat.div_lt_of_lt_mul hk) (Nat.mod_lt k (by decide)),
    Nat.div_add_mod]

theorem decodeBytes_of_length {bs : List Byte} (h : bs.length = 8) : decodeBytes bs = decode (wordOfBytes bs) := if_pos h

/-- Settles O5: the bytes and the word agree at every bit, and the decoder sees no more than the word. -/
theorem wrapperBytesAreLittleEndian : Obligations.WrapperBytesAreLittleEndian := by
  intro w
  have hword := wordOfBytes_bytesOfWord w
  refine ⟨fun i hi b hb => getLsbD_bytesOfWord w hi hb, hword, ?_⟩
  rw [decodeBytes_of_length (length_bytesOfWord w), hword]

end Sys2Proof
end

section
/-! The decoder and the encoder undo each other (30_encoding.md R303 to R309, R312): what the opcode map answers for each
opcode, and that the two operand kinds survive their 32-bit field. -/

namespace Sys2Proof

open Sys2Proof.Laws

variable {w : Word} {a : Arg} {op : Nat} {i j : Instr}

/-! ### Operands (R307) -/

/-- The unsigned operands that fit are read back from their field. -/
theorem unsignedOperand_ofNat {n : Nat} (h : fitsUnsigned n = true) : unsignedOperand (BitVec.ofNat 32 n) = n := by
  have hle : n ≤ 4294967295 := of_decide_eq_true h
  rw [unsignedOperand, BitVec.toNat_ofNat, Nat.mod_eq_of_lt (by omega)]

/-- The signed operands that fit are read back from their field. -/
theorem signedOperand_ofInt {c : Int} (h : fitsSigned c = true) : signedOperand (BitVec.ofInt 32 c) = c := by
  obtain ⟨hlow, hhigh⟩ : -2147483648 ≤ c ∧ c ≤ 2147483647 := of_decide_eq_true h
  exact BitVec.toInt_ofInt_eq_self (by decide) (by omega) (by omega)

theorem fitsUnsigned_unsignedOperand (a : Arg) : fitsUnsigned (unsignedOperand a) = true :=
  decide_eq_true (Nat.le_of_lt_succ a.isLt)

theorem fitsSigned_signedOperand (a : Arg) : fitsSigned (signedOperand a) = true := by
  have hlow : -2 ^ 31 ≤ a.toInt := BitVec.le_toInt a
  have hhigh : a.toInt < 2 ^ 31 := BitVec.toInt_lt
  exact decide_eq_true ⟨hlow, by unfold signedOperand; omega⟩

@[simp] theorem ofNat_unsignedOperand (a : Arg) : BitVec.ofNat 32 (unsignedOperand a) = a := by
  rw [unsignedOperand, BitVec.ofNat_toNat, BitVec.setWidth_eq]

@[simp] theorem ofInt_signedOperand (a : Arg) : BitVec.ofInt 32 (signedOperand a) = a := BitVec.ofInt_toInt

theorem noOperand_zero (i : Instr) : noOperand 0 i = .ok i := rfl

theorem noOperand_of_ne (i : Instr) (h : a ≠ 0) : noOperand a i = .error .nonzeroArg := if_neg h

theorem noOperand_eq_ok (h : noOperand a j = .ok i) : a = 0 ∧ i = j := by
  by_cases ha : a = 0
  · subst ha
    exact ⟨rfl, (Except.ok.inj h).symm⟩
  · cases (noOperand_of_ne j ha).symm.trans h

/-! ### The opcode map (R305) -/

/-- A command that the opcode map answers is well-formed and has this opcode and this operand field. -/
theorem decodeOp_eq_ok (h : decodeOp op a = .ok i) : i.wf = true ∧ i.opcode.toNat = op ∧ i.operand = a := by
  unfold decodeOp at h
  split at h
  case h_1 | h_5 | h_6 | h_7 | h_12 =>
    obtain ⟨rfl, rfl⟩ := noOperand_eq_ok h
    exact ⟨rfl, rfl, rfl⟩
  case h_3 | h_9 =>
    cases h
    exact ⟨fitsSigned_signedOperand a, rfl, ofInt_signedOperand a⟩
  case h_13 => cases h
  all_goals
    cases h
    exact ⟨fitsUnsigned_unsignedOperand a, rfl, ofNat_unsignedOperand a⟩

/-- The opcode map gives every well-formed command back from its opcode and its operand field. -/
theorem decodeOp_opcode_operand (h : i.wf = true) : decodeOp i.opcode.toNat i.operand = .ok i := by
  cases i with
  | nop | start | stop | init | clrerr => exact noOperand_zero _
  | setn n => exact congrArg (Except.ok ∘ Instr.setn) (unsignedOperand_ofNat h)
  | setl l => exact congrArg (Except.ok ∘ Instr.setl) (unsignedOperand_ofNat h)
  | block m => exact congrArg (Except.ok ∘ Instr.block) (unsignedOperand_ofNat h)
  | read sel => exact congrArg (Except.ok ∘ Instr.read) (unsignedOperand_ofNat h)
  | rdc k => exact congrArg (Except.ok ∘ Instr.rdc) (unsignedOperand_ofNat h)
  | ldc c => exact congrArg (Except.ok ∘ Instr.ldc) (signedOperand_ofInt h)
  | push x => exact congrArg (Except.ok ∘ Instr.push) (signedOperand_ofInt h)

/-- R306: the four opcodes beyond CLRERR are no command. -/
theorem decodeOp_of_reservedOpcode (a : Arg) (h : 12 ≤ op) : decodeOp op a = .error .reservedOpcode := by
  unfold decodeOp
  split
  case h_13 => rfl
  all_goals omega

/-- R308: the five commands without an operand need an operand field of 0. -/
theorem decodeOp_of_nonzeroArg (hop : op ∈ [0, 4, 5, 6, 11]) (ha : a ≠ 0) : decodeOp op a = .error .nonzeroArg := by
  simp only [List.mem_cons, List.not_mem_nil, or_false] at hop
  obtain rfl | rfl | rfl | rfl | rfl := hop <;> exact noOperand_of_ne _ ha

/-- Every other opcode and operand field is a command. -/
theorem exists_decodeOp_eq_ok (hop : op < 12) (ha : op ∈ [0, 4, 5, 6, 11] → a = 0) : ∃ i, decodeOp op a = .ok i := by
  unfold decodeOp
  split
  case h_1 | h_5 | h_6 | h_7 | h_12 =>
    obtain rfl := ha (by decide)
    exact ⟨_, noOperand_zero _⟩
  case h_13 => interval_cases op <;> contradiction
  all_goals exact ⟨_, rfl⟩

/-! ### Words (R304, R309, R312) -/

theorem decode_of_reservedBits (h : rsvOf w ≠ 0) : decode w = .error .reservedBits := if_pos h

theorem decode_of_rsvOf_eq_zero (h : rsvOf w = 0) : decode w = decodeOp (opOf w).toNat (argOf w) :=
  if_neg (not_not.mpr h)

/-- Only the opcode and the operand field of an encoded command matter to the decoder. -/
theorem decode_encode_eq_decodeOp (i : Instr) : decode (encode i) = decodeOp i.opcode.toNat i.operand := by
  obtain ⟨hop, hrsv, harg⟩ := encodingFields i
  rw [decode_of_rsvOf_eq_zero hrsv, hop, harg]

/-- Settles O1: the fields of the encoded word are the command's, and the opcode map gives the command back from them. -/
theorem decodeOfEncode : Obligations.DecodeOfEncode := fun i h =>
  (decode_encode_eq_decodeOp i).trans (decodeOp_opcode_operand h)

theorem rsvOf_eq_zero_of_decode (h : decode w = .ok i) : rsvOf w = 0 := by
  by_contra hrsv
  cases (decode_of_reservedBits hrsv).symm.trans h

/-- Settles O2: the decoded command has the word's opcode and operand field, and the third field is 0. -/
theorem encodeOfDecode : Obligations.EncodeOfDecode := by
  intro w i h
  have hrsv := rsvOf_eq_zero_of_decode h
  obtain ⟨hwf, hop, harg⟩ := decodeOp_eq_ok ((decode_of_rsvOf_eq_zero hrsv).symm.trans h)
  refine ⟨hwf, ?_⟩
  calc encode i = wordOf (argOf w) (rsvOf w) (opOf w) := by rw [encode, harg, BitVec.eq_of_toNat_eq hop, hrsv]
    _ = w := wordOf_fields w

/-- Each of the three grounds of R304, R306 and R308 makes a word no command. -/
theorem exists_decode_eq_error
    (h : rsvOf w ≠ 0 ∨ 12 ≤ (opOf w).toNat ∨ ((opOf w).toNat ∈ [0, 4, 5, 6, 11] ∧ argOf w ≠ 0)) :
    ∃ x, decode w = .error x := by
  by_cases hrsv : rsvOf w = 0
  · rw [decode_of_rsvOf_eq_zero hrsv]
    obtain hop | ⟨hop, harg⟩ := h.resolve_left (not_not.mpr hrsv)
    · exact ⟨_, decodeOp_of_reservedOpcode _ hop⟩
    · exact ⟨_, decodeOp_of_nonzeroArg hop harg⟩
  · exact ⟨_, decode_of_reservedBits hrsv⟩

/-- A word with none of the three grounds is a command. -/
theorem exists_decode_eq_ok
    (h : ¬ (rsvOf w ≠ 0 ∨ 12 ≤ (opOf w).toNat ∨ ((opOf w).toNat ∈ [0, 4, 5, 6, 11] ∧ argOf w ≠ 0))) :
    ∃ i, decode w = .ok i := by
  obtain ⟨hrsv, hop, harg⟩ : rsvOf w = 0 ∧ (opOf w).toNat < 12 ∧ ((opOf w).toNat ∈ [0, 4, 5, 6, 11] → argOf w = 0) := by
    simpa only [not_or, not_and, not_not, not_le] using h
  rw [decode_of_rsvOf_eq_zero hrsv]
  exact exists_decodeOp_eq_ok hop harg

/-- Settles O3: the three grounds are exactly the words that the decoder rejects. -/
theorem wordIsCommandOrRaisesIllegal : Obligations.WordIsCommandOrRaisesIllegal := by
  intro w s
  constructor
  · intro h
    obtain ⟨x, hx⟩ := exists_decode_eq_error h
    exact Machine.execWord_of_error s hx
  · intro h
    obtain ⟨i, hi⟩ := exists_decode_eq_ok h
    exact ⟨i, hi, Machine.execWord_of_ok s hi⟩

/-- Settles O4: the decoder reads each word, and the encoder writes it, by evaluation. -/
theorem exampleWordsDecode : Obligations.ExampleWordsDecode := by
  unfold Obligations.ExampleWordsDecode
  decide

end Sys2Proof
end

section
/-! The assembler emits only commands that their words can hold (30_encoding.md R311, R313): each way to read the operands of a
mnemonic checks what it emits. -/

namespace Sys2Proof

/-- What the assembler answers holds well-formed commands only; a refusal holds none. -/
def EmitsWellFormed (r : Except AsmError (List Instr)) : Prop := ∀ is, r = .ok is → ∀ i ∈ is, i.wf = true

variable {ops : List (List Char)} {r r' : Except AsmError (List Instr)}

theorem EmitsWellFormed.error (e : AsmError) : EmitsWellFormed (.error e) := nofun

theorem EmitsWellFormed.ok {is : List Instr} (h : ∀ i ∈ is, i.wf = true) : EmitsWellFormed (.ok is) := by
  rintro _ ⟨⟩
  exact h

theorem EmitsWellFormed.ite {p : Prop} [Decidable p] (h : p → EmitsWellFormed r) (h' : ¬ p → EmitsWellFormed r') :
    EmitsWellFormed (if p then r else r') := by
  split
  case isTrue hp => exact h hp
  case isFalse hp => exact h' hp

/-- A command with one operand is checked before it is emitted. -/
theorem EmitsWellFormed.oneOperand (parse : List Char → Option Int) (ops : List (List Char)) (make : Int → Option Instr) :
    EmitsWellFormed (oneOperand parse ops make) := by
  unfold Sys2Proof.oneOperand
  split
  · split
    · exact .error _
    · split
      · exact .ite (fun hwf => .ok (List.forall_mem_singleton.mpr hwf)) fun _ => .error _
      · exact .error _
  · exact .error _

theorem EmitsWellFormed.noOperands {i : Instr} (h : i.wf = true) : EmitsWellFormed (noOperands ops i) :=
  .ite (fun _ => .ok (List.forall_mem_singleton.mpr h)) fun _ => .error _

/-- An expansion is checked as a whole before it is emitted. -/
theorem EmitsWellFormed.expandOperands (ops : List (List Char)) (f : List Int → List Instr) :
    EmitsWellFormed (expandOperands ops f) := by
  unfold Sys2Proof.expandOperands
  split
  · exact .error _
  · exact .ite (fun hwf => .ok (List.all_eq_true.mp hwf)) fun _ => .error _

/-- One branch for each mnemonic, in the order of `assembleMnemonic`. -/
theorem EmitsWellFormed.assembleMnemonic (name : List Char) (ops : List (List Char)) :
    EmitsWellFormed (assembleMnemonic name ops) :=
  .ite (fun _ => .noOperands rfl) fun _ => .ite (fun _ => .oneOperand _ _ _) fun _ =>
  .ite (fun _ => .oneOperand _ _ _) fun _ => .ite (fun _ => .oneOperand _ _ _) fun _ =>
  .ite (fun _ => .noOperands rfl) fun _ => .ite (fun _ => .noOperands rfl) fun _ =>
  .ite (fun _ => .noOperands rfl) fun _ => .ite (fun _ => .oneOperand _ _ _) fun _ =>
  .ite (fun _ => .oneOperand _ _ _) fun _ => .ite (fun _ => .oneOperand _ _ _) fun _ =>
  .ite (fun _ => .oneOperand _ _ _) fun _ => .ite (fun _ => .noOperands rfl) fun _ =>
  .ite (fun _ => .expandOperands _ _) fun _ => .ite (fun _ => .expandOperands _ _) fun _ =>
  .ite (fun _ => .expandOperands _ _) fun _ => .error _

theorem EmitsWellFormed.assembleLine (line : List Char) : EmitsWellFormed (assembleLine line) :=
  .ite (fun _ => .ok (List.forall_mem_nil _)) fun _ => .assembleMnemonic _ _

/-- Settles O6: what a line emits is well-formed, so it decodes back. -/
theorem assembledCommandsRoundTrip : Obligations.AssembledCommandsRoundTrip := by
  intro line is h i hi
  have hwf : i.wf = true := EmitsWellFormed.assembleLine line is h i hi
  exact ⟨hwf, decodeOfEncode i hwf⟩

end Sys2Proof
end

section
/-! What every command does at the port (30_encoding.md R301, R302): it answers once, and it neither reads nor writes the
host's coming edges. -/

namespace Sys2Proof.Machine

open Sys2Proof

variable {i : Instr} {s t u : State}

/-! ### Every command answers -/

theorem exists_guarded_respond_eq_next (checks : List (Bool × Err)) (s u : State) (d : Nat) :
    ∃ t, guarded checks s (respond d u) = .next t := by
  cases hf : firstError checks with
  | none => exact ⟨_, guarded_of_none s _ hf⟩
  | some e => exact ⟨_, guarded_of_error s _ hf⟩

theorem exists_exec_eq_next (i : Instr) (s : State) : ∃ t, exec i s = .next t := by
  cases i with
  | nop | clrerr => exact ⟨_, rfl⟩
  | read sel =>
    cases hv : view s sel with
    | none => exact ⟨_, exec_read_none hv⟩
    | some d => exact ⟨_, exec_read_view hv⟩
  | setn | ldc | setl | start | stop | init | block | push | rdc => exact exists_guarded_respond_eq_next _ _ _ _

theorem Effect.host_eq (h : Effect s i u) : u.host = s.host := by cases h <;> simp

theorem exec_keeps_params_host (h : exec i s = .next t) : t.params = s.params ∧ t.host = s.host := by
  obtain ⟨u, c, r, rfl | he, rfl⟩ := exec_changes h
  · exact ⟨rfl, rfl⟩
  · exact ⟨he.params_eq, he.host_eq⟩

/-- Settles O12: a command completes with an error or with its effect, and either way a response stands. -/
theorem everyCommandIsAnswered : Obligations.EveryCommandIsAnswered := by
  intro i s
  obtain ⟨t, ht⟩ := exists_exec_eq_next i s
  obtain ⟨r, hr⟩ : ∃ r, t.rsp = some r := by
    obtain ⟨e, -, rfl⟩ | ⟨u, d, -, -, rfl⟩ := exec_completes ht
    · exact ⟨_, rfl⟩
    · exact ⟨_, rfl⟩
  obtain ⟨hparams, hhost⟩ := exec_keeps_params_host ht
  exact ⟨t, r, ht, hr, hparams, hhost⟩

/-! ### No command sees the host's coming edges -/

theorem Lane.eq_lane0_or_lane1 (l : Lane) : l = .lane0 ∨ l = .lane1 := by cases l <;> decide

/-- The same answer, with other edges to come. -/
def withEdges (edges : List Edge) : Result → Result
  | .next t => .next { t with host := edges }
  | .fault f => .fault f
  | .refused r => .refused r

theorem State.laneStep_host_update (s : State) (x : Int) (edges : List Edge) :
    State.laneStep { s with host := edges } x = { s.laneStep x with host := edges } := by
  obtain hp | hp := s.phase.eq_lane0_or_lane1
  · rw [State.laneStep_lane0 s x hp, State.laneStep_lane0 { s with host := edges } x hp]
    rfl
  · rw [State.laneStep_lane1 s x hp, State.laneStep_lane1 { s with host := edges } x hp]
    rfl

theorem laneOutput_host_update (s : State) (x : Int) (edges : List Edge) :
    laneOutput { s with host := edges } x = laneOutput s x := by
  obtain hp | hp := s.phase.eq_lane0_or_lane1
  · rw [laneOutput_lane0 x hp, laneOutput_lane0 (s := { s with host := edges }) x hp]
    rfl
  · rw [laneOutput_lane1 x hp, laneOutput_lane1 (s := { s with host := edges }) x hp]
    rfl

/-- Where the checks and the effect do not see the edges, nor does the guarded command. -/
theorem guarded_host_update {checks : List (Bool × Err)} {effect effect' : Result} (edges : List Edge)
    (h : effect' = withEdges edges effect) :
    guarded checks { s with host := edges } effect' = withEdges edges (guarded checks s effect) := by
  subst h
  cases hf : firstError checks with
  | none => rw [guarded_of_none _ _ hf, guarded_of_none _ _ hf]
  | some e => rw [guarded_of_error _ _ hf, guarded_of_error _ _ hf]; rfl

theorem exec_host_update (i : Instr) (s : State) (edges : List Edge) :
    exec i { s with host := edges } = withEdges edges (exec i s) := by
  cases i with
  | nop | clrerr => rfl
  | read sel =>
    cases hv : view s sel with
    | none => rw [exec_read_none hv, exec_read_none (s := { s with host := edges }) hv]; rfl
    | some d => rw [exec_read_view hv, exec_read_view (s := { s with host := edges }) hv]; rfl
  | setn | ldc | setl | start | stop | init | block | rdc => exact guarded_host_update edges rfl
  | push x =>
    refine guarded_host_update edges ?_
    rw [laneOutput_host_update, State.laneStep_host_update]
    rfl

theorem execWord_host_update {w : Word} (h : execWord w s = .next t) (edges : List Edge) :
    execWord w { s with host := edges } = .next { t with host := edges } := by
  cases hd : decode w with
  | ok i =>
    rw [execWord_of_ok _ hd] at h ⊢
    rw [exec_host_update, h, withEdges]
  | error x =>
    obtain rfl := Host.Outcome.next.inj ((execWord_of_error s hd).symm.trans h)
    exact execWord_of_error _ hd

theorem execWord_keeps_params {w : Word} (h : execWord w s = .next t) : t.params = s.params := by
  cases hd : decode w with
  | ok i => exact (exec_keeps_params_host ((execWord_of_ok s hd).symm.trans h)).1
  | error x =>
    obtain rfl := Host.Outcome.next.inj ((execWord_of_error s hd).symm.trans h)
    rfl

end Sys2Proof.Machine
end

section
/-! Steps at the command port (30_encoding.md R301, R302): a command's edge, a response's edge, and the transaction they make. -/

namespace Sys2Proof.Machine

open Sys2Proof

variable {s t : State} {e : Edge} {rest : List Edge} {r : Response} {w : Word}

theorem step_command (hl : s.params.Legal) (hh : s.host = e :: rest) (hrst : e.rst = false) (hv : e.cmdValid = true)
    (hr : s.rsp = none) : step s = execWord e.cmdWord { s with host := rest } :=
  (step_of_edge hl hh).trans (atEdge_command hrst hr hv)

theorem step_deliver (hl : s.params.Legal) (hh : s.host = e :: rest) (hrst : e.rst = false) (hr : s.rsp = some r)
    (ha : e.rspReady = true) : step s = .next { s with rsp := none, host := rest } :=
  (step_of_edge hl hh).trans (atEdge_deliver hrst hr ha)

theorem step_hold (hl : s.params.Legal) (hh : s.host = e :: rest) (hrst : e.rst = false) (hr : s.rsp = some r)
    (ha : e.rspReady = false) : step s = .next { s with host := rest } :=
  (step_of_edge hl hh).trans (atEdge_hold hrst hr ha)

/-- Settles O7: the step is the command edge's, and its word decodes to i. -/
theorem stepRunsDecodedCommand : Obligations.StepRunsDecodedCommand :=
  fun _ _ _ _ hl hh hrst hv hr hd => (step_command hl hh hrst hv hr).trans (execWord_of_ok _ hd)

theorem State.cmdReady_of_rsp (h : s.rsp = some r) (rst : Bool) : s.cmdReady rst = false := by
  simp [State.cmdReady, State.outstanding, h]

theorem State.rspPort_of_rsp (h : s.rsp = some r) : s.rspPort false = some r := h

/-- Settles O9: `rsp_ready` decides between the edge that delivers the response and the edge that holds it. -/
theorem outstandingResponseIsHeld : Obligations.OutstandingResponseIsHeld := by
  intro s e rest r hl hh hrst hr
  refine ⟨State.cmdReady_of_rsp hr false, State.rspPort_of_rsp hr, ?_⟩
  cases ha : e.rspReady with
  | true => exact step_deliver hl hh hrst hr ha
  | false =>
    rw [step_hold hl hh hrst hr ha, ← hr]
    rfl

/-- What `serve` answers comes from the word's meaning: the response it leaves, and the state without it. -/
theorem exists_execWord_of_serve (h : serve w s = some (t, r)) :
    ∃ u, execWord w s = .next u ∧ u.rsp = some r ∧ t = { u with rsp := none } := by
  unfold serve at h
  split at h
  case h_1 u hu =>
    obtain ⟨a, ha, hpair⟩ := Option.map_eq_some_iff.mp h
    obtain ⟨rfl, rfl⟩ := Prod.mk.inj hpair
    exact ⟨u, hu, ha, rfl⟩
  case h_2 => cases h
  case h_3 => cases h

/-- Settles O10: the first edge runs the word, which does not see the edges behind it, and the second takes the response
away. -/
theorem transactionTakesTwoEdges : Obligations.TransactionTakesTwoEdges := by
  intro s t w r rest hl hr hh hserve
  obtain ⟨u, hu, hur, rfl⟩ := exists_execWord_of_serve hserve
  have hcommand : step s = .next { u with host := acceptEdge :: rest } :=
    (step_command hl hh rfl rfl hr).trans (execWord_host_update hu _)
  have hlegal : u.params.Legal := (execWord_keeps_params hu).symm ▸ hl
  exact ⟨_, hcommand, State.rspPort_of_rsp hur, step_deliver hlegal rfl rfl hur rfl⟩

/-- The duty at its first pair of edges: a command presented while another is outstanding is presented again. -/
theorem HoldsCommand.next {e' : Edge} (h : HoldsCommand true (e :: e' :: rest)) (hv : e.cmdValid = true)
    (hrst : e.rst = false) (hrst' : e'.rst = false) : e'.cmdValid = true ∧ e'.cmdWord = e.cmdWord :=
  (h.1 ⟨rfl, hv, hrst⟩).resolve_left (by simp [hrst'])

/-- Settles O11: the first edge takes the response away, and the second brings the command that the host has held. -/
theorem heldCommandRunsNext : Obligations.HeldCommandRunsNext := by
  intro s r e e' rest i hl hr hh hholds hrst hv ha hrst' hd
  have hbusy : s.outstanding = true := by simp [State.outstanding, hr]
  rw [hbusy, hh] at hholds
  obtain ⟨hv', hw⟩ := hholds.next hv hrst hrst'
  refine ⟨_, step_deliver hl hh hrst hr ha, ?_⟩
  exact stepRunsDecodedCommand _ e' rest i hl rfl hrst' hv' rfl (hw ▸ hd)

end Sys2Proof.Machine
end

section
/-! LOADH at transaction level (30_encoding.md R313; 43_cmd_config.md R600, R601): each LDC appends one tap to those loaded. -/

namespace Sys2Proof.Machine

open Sys2Proof

variable {i : Instr} {s t u : State} {d : Nat}

/-! ### Serving a command -/

/-- A well-formed command that succeeds is served from its own encoding. -/
theorem serve_encode (hwf : i.wf = true) (h : Succeeds i s d t) (hrsp : t.rsp = none) :
    serve (encode i) s = some (t, { err := 0, data := d }) := by
  have hnone : { t with rsp := none } = t := by rw [← hrsp]
  have hword : execWord (encode i) s = .next { t with rsp := some { err := 0, data := d } } :=
    (execWord_of_ok s (decodeOfEncode i hwf)).trans h
  simp only [serve, hword, Option.map_some, hnone]

theorem serveAll_cons {w : Word} {ws : List Word} {r : Response} {rs : List Response} (h : serve w s = some (t, r))
    (hrest : serveAll ws t = some (u, rs)) : serveAll (w :: ws) s = some (u, r :: rs) := by
  simp only [serveAll, h, hrest, Option.map_some]

/-! ### Loading taps -/

theorem succeeds_setn {n : Nat} (hm : s.mode = .config) (hpos : 1 ≤ n) (hle : n ≤ s.params.nmax) :
    Succeeds (.setn n) s 0 { s with ntaps := n, cptr := 0, coef := List.replicate s.params.nmax 0 } := by
  have hrange : ¬ (n < 1 ∨ s.params.nmax < n) := by omega
  rw [Succeeds, exec_setn, if_neg (not_not.mpr hm), if_neg hrange]

theorem succeeds_ldc {c : Int} (hm : s.mode = .config) (hspace : s.cptr ≠ s.ntaps) (hc : InRangeS c s.params.wc) :
    Succeeds (.ldc c) s 0 { s with coef := s.coef.set s.cptr c, cptr := s.cptr + 1 } := by
  rw [Succeeds, exec_ldc, if_neg (not_not.mpr hm), if_neg hspace, if_neg (not_not.mpr hc)]

/-- s with these taps loaded so far, in index order, and coefficients of 0 beyond them. -/
def State.withTaps (s : State) (taps : List Int) : State :=
  { s with cptr := taps.length, coef := taps ++ List.replicate (s.params.nmax - taps.length) 0 }

/-- The first 0 behind the loaded taps is replaced by the next tap. -/
theorem set_append_replicate_zero (taps : List Int) (c : Int) {n : Nat} (h : taps.length < n) :
    (taps ++ List.replicate (n - taps.length) 0).set taps.length c =
      (taps ++ [c]) ++ List.replicate (n - (taps ++ [c]).length) 0 := by
  obtain ⟨k, hk⟩ : ∃ k, n - taps.length = k + 1 := ⟨n - taps.length - 1, by omega⟩
  have hk' : n - (taps ++ [c]).length = k := by
    rw [List.length_append, List.length_singleton]
    omega
  rw [hk, hk', List.set_append_right _ _ le_rfl]
  simp [List.replicate_succ]

/-- What LDC c leaves when taps are loaded: c stands behind them. -/
theorem State.withTaps_append_singleton {taps : List Int} (c : Int) (h : taps.length < s.params.nmax) :
    { s.withTaps taps with
      coef := (s.withTaps taps).coef.set (s.withTaps taps).cptr c, cptr := (s.withTaps taps).cptr + 1 } =
      s.withTaps (taps ++ [c]) := by
  simp only [State.withTaps, set_append_replicate_zero taps c h, List.length_append, List.length_singleton]

/-- A coefficient of a legal width fits the operand field. -/
theorem wf_ldc_of_inRangeS {c : Int} (hl : s.params.Legal) (hc : InRangeS c s.params.wc) : (Instr.ldc c).wf = true := by
  obtain ⟨hlow, hhigh⟩ := hc
  have hwidth : (2 : Int) ^ (s.params.wc - 1) ≤ 2 ^ 31 := by
    obtain ⟨-, -, -, -, hwc, -, -⟩ := hl
    exact pow_le_pow_right₀ (by decide) (by omega)
  exact decide_eq_true (by omega)

/-- Induction on the taps still to load. -/
theorem serveAll_ldc (hl : s.params.Legal) (hm : s.mode = .config) (hrsp : s.rsp = none) (hle : s.ntaps ≤ s.params.nmax)
    (taps : List Int) {loaded : List Int} (hspace : loaded.length + taps.length ≤ s.ntaps)
    (hrange : ∀ c ∈ taps, InRangeS c s.params.wc) :
    serveAll ((taps.map .ldc).map encode) (s.withTaps loaded) =
      some (s.withTaps (loaded ++ taps), List.replicate taps.length { err := 0, data := 0 }) := by
  induction taps generalizing loaded with
  | nil => simp [serveAll]
  | cons c taps ih =>
    obtain ⟨hc, htaps⟩ := List.forall_mem_cons.mp hrange
    rw [List.length_cons] at hspace
    have hload : Succeeds (.ldc c) (s.withTaps loaded) 0 (s.withTaps (loaded ++ [c])) := by
      rw [← State.withTaps_append_singleton c (by omega)]
      exact succeeds_ldc hm (show loaded.length ≠ s.ntaps by omega) hc
    have hserve := serve_encode (wf_ldc_of_inRangeS hl hc) hload hrsp
    have hrest := ih (loaded := loaded ++ [c]) (by simp; omega) htaps
    rw [List.append_assoc, List.singleton_append] at hrest
    exact serveAll_cons hserve hrest

/-- Settles O44: SETN makes room for the taps, and the LDCs load them one behind the other. -/
theorem loadhLoadsTheTaps : Obligations.LoadhLoadsTheTaps := by
  intro s h hinv hm hrsp hne hle hrange
  have hpos : 1 ≤ h.length := List.length_pos_iff.mpr hne
  have hwf : (Instr.setn h.length).wf = true := by
    obtain ⟨-, -, hnmax, -⟩ := hinv.legal
    exact decide_eq_true (by omega)
  have hsetn : serve (encode (.setn h.length)) s =
      some (State.withTaps { s with ntaps := h.length } [], { err := 0, data := 0 }) :=
    serve_encode hwf (succeeds_setn hm hpos hle) hrsp
  have hldc := serveAll_ldc (s := { s with ntaps := h.length }) hinv.legal hm hrsp hle h (loaded := []) (by simp) hrange
  exact serveAll_cons hsetn hldc

end Sys2Proof.Machine
end

section
/-! The host's coefficient preparation: the maximum magnitude of the taps, rounding half away from zero, and the range of
the results (40_coefficient_adapter.md R402 to R405). -/

namespace Sys2Proof

open Sys2Proof.Machine

/-! ### The maximum magnitude (R402) -/

@[simp] theorem maxMagnitude_nil : maxMagnitude [] = 0 := rfl

@[simp] theorem maxMagnitude_cons (t : ℚ) (taps : List ℚ) : maxMagnitude (t :: taps) = max |t| (maxMagnitude taps) := rfl

theorem maxMagnitude_le_iff {b : ℚ} (hb : 0 ≤ b) (taps : List ℚ) : maxMagnitude taps ≤ b ↔ ∀ t ∈ taps, |t| ≤ b := by
  induction taps with
  | nil => simp [hb]
  | cons t taps ih => simp [ih]

theorem maxMagnitude_nonneg : ∀ taps : List ℚ, 0 ≤ maxMagnitude taps
  | [] => le_rfl
  | t :: _ => (abs_nonneg t).trans (le_max_left _ _)

theorem abs_le_maxMagnitude {t : ℚ} {taps : List ℚ} (ht : t ∈ taps) : |t| ≤ maxMagnitude taps :=
  (maxMagnitude_le_iff (maxMagnitude_nonneg taps) taps).mp le_rfl t ht

theorem maxMagnitude_eq_zero_iff {taps : List ℚ} : maxMagnitude taps = 0 ↔ ∀ t ∈ taps, t = 0 := by
  rw [← (maxMagnitude_nonneg taps).ge_iff_eq', maxMagnitude_le_iff le_rfl]
  simp only [abs_nonpos_iff]

theorem maxMagnitude_eq_abs {t : ℚ} {taps : List ℚ} (ht : t ∈ taps) (hmax : ∀ u ∈ taps, |u| ≤ |t|) :
    maxMagnitude taps = |t| :=
  le_antisymm ((maxMagnitude_le_iff (abs_nonneg t) taps).mpr hmax) (abs_le_maxMagnitude ht)

/-! ### Rounding half away from zero (R404) -/

theorem abs_roundHalfAway (v : ℚ) : |roundHalfAway v| = ⌊|v| + 1 / 2⌋ := by
  have hnonneg : 0 ≤ ⌊|v| + 1 / 2⌋ := Int.floor_nonneg.mpr (by positivity)
  unfold roundHalfAway
  split
  · rw [abs_neg, abs_of_nonneg hnonneg]
  · exact abs_of_nonneg hnonneg

theorem floor_add_half (n : Int) : ⌊(n : ℚ) + 1 / 2⌋ = n := by
  rw [Int.floor_intCast_add, show ⌊(1 / 2 : ℚ)⌋ = 0 by norm_num, add_zero]

/-- Rounding takes no value past an integer bound: less than 1/2 above the bound n, the floor is still at most n. -/
theorem abs_roundHalfAway_le {v : ℚ} {n : Int} (h : |v| ≤ n) : |roundHalfAway v| ≤ n :=
  calc |roundHalfAway v| = ⌊|v| + 1 / 2⌋ := abs_roundHalfAway v
    _ ≤ ⌊(n : ℚ) + 1 / 2⌋ := Int.floor_mono (by linarith)
    _ = n := floor_add_half n

theorem roundHalfAway_intCast (n : Int) : roundHalfAway n = n := by
  rw [roundHalfAway, ← Int.cast_abs, floor_add_half]
  split
  case isTrue h => rw [abs_of_neg (Int.cast_lt_zero.mp h), neg_neg]
  case isFalse h => exact abs_of_nonneg (Int.cast_nonneg_iff.mp (not_lt.mp h))

/-! ### Quantising one tap (R403, R405) -/

theorem fullScale_nonneg (width : Nat) : (0 : Int) ≤ 2 ^ (width - 1) - 1 :=
  sub_nonneg.mpr (one_le_pow₀ one_le_two)

/-- The scale of R403 is an integer. -/
theorem quantise_eq (m : ℚ) (width : Nat) (t : ℚ) :
    quantise m width t = roundHalfAway (t / m * ((2 ^ (width - 1) - 1 : Int) : ℚ)) := by
  push_cast
  rfl

/-- A tap is at most the maximum in magnitude, so its quotient is at most 1 and its product at most the full scale. -/
theorem abs_quantise_le {m t : ℚ} (h : |t| ≤ m) (width : Nat) : |quantise m width t| ≤ 2 ^ (width - 1) - 1 := by
  have hm : 0 ≤ m := (abs_nonneg t).trans h
  have hscale : (0 : ℚ) ≤ ((2 ^ (width - 1) - 1 : Int) : ℚ) := Int.cast_nonneg (fullScale_nonneg width)
  have hquotient : |t / m| ≤ 1 := by
    rw [abs_div, abs_of_nonneg hm]
    exact div_le_one_of_le₀ h hm
  rw [quantise_eq]
  apply abs_roundHalfAway_le
  rw [abs_mul, abs_of_nonneg hscale]
  exact mul_le_of_le_one_left hscale hquotient

/-- A tap of maximum magnitude has quotient 1 or −1 by its sign, and its product is an integer. -/
theorem quantise_abs_self {t : ℚ} (ht : t ≠ 0) (width : Nat) :
    quantise |t| width t = if t < 0 then -(2 ^ (width - 1) - 1) else 2 ^ (width - 1) - 1 := by
  rw [quantise_eq]
  split
  case isTrue h => rw [abs_of_neg h, div_neg, div_self ht, neg_one_mul, ← Int.cast_neg, roundHalfAway_intCast]
  case isFalse h => rw [abs_of_nonneg (not_lt.mp h), div_self ht, one_mul, roundHalfAway_intCast]

/-- 00_scope.md R12's range has one value more than R405's: −2^(width−1), which `adapt` never gives. -/
theorem inRangeS_of_abs_le {q : Int} {width : Nat} (h : |q| ≤ 2 ^ (width - 1) - 1) :
    InRangeS q width ∧ q ≠ -(2 ^ (width - 1)) := by
  obtain ⟨hlow, hhigh⟩ := abs_le.mp h
  exact ⟨⟨by omega, hhigh⟩, by omega⟩

/-! ### The adapter -/

theorem adapt_of_zero {taps : List ℚ} (h : ∀ t ∈ taps, t = 0) (width : Nat) :
    adapt taps width = .error .degenerateFilter := if_pos (maxMagnitude_eq_zero_iff.mpr h)

theorem adapt_of_nonzero {taps : List ℚ} (h : ∃ t ∈ taps, t ≠ 0) (width : Nat) :
    adapt taps width = .ok (taps.map (quantise (maxMagnitude taps) width)) := by
  obtain ⟨t, ht, hne⟩ := h
  exact if_neg fun hzero => hne (maxMagnitude_eq_zero_iff.mp hzero t ht)

theorem elem_map {α : Type} (f : α → Int) (l : List α) (d : α) {k : Nat} (hk : k < l.length) :
    elem (l.map f) k = f (l.getD k d) := by
  rw [elem_eq_getElem _ _ (by simpa using hk), List.getElem_map, List.getD_eq_getElem l d hk]

/-- Settles O56: each result is one tap quantised against the maximum, and a tap of maximum magnitude is the maximum. -/
theorem adapterRange : Obligations.AdapterRange := by
  intro taps width
  refine ⟨fun hzero => adapt_of_zero hzero width, fun _ hne => ⟨_, adapt_of_nonzero hne width, List.length_map _, ?_, ?_⟩⟩
  · intro q hq
    obtain ⟨t, ht, rfl⟩ := List.mem_map.mp hq
    have hle := abs_quantise_le (abs_le_maxMagnitude ht) width
    exact ⟨hle, inRangeS_of_abs_le hle⟩
  · intro k hk hmax
    have hmem : taps.getD k 0 ∈ taps := List.getD_eq_getElem taps 0 hk ▸ List.getElem_mem hk
    have hpeak : taps.getD k 0 ≠ 0 := by
      obtain ⟨t, ht, htne⟩ := hne
      exact abs_pos.mp ((abs_pos.mpr htne).trans_le (hmax t ht))
    rw [elem_map _ taps 0 hk, maxMagnitude_eq_abs hmem hmax, quantise_abs_self hpeak]

end Sys2Proof
end

section
/-! The lane splitter's functions (41_lane_splitter.md R450 to R452). All of it turns on one list, the lengths of the lanes
of a sequence of n elements: `split` gives lanes of these lengths, `merge` accepts exactly these, and R451's inequalities
say the same of them. -/

namespace Sys2Proof

/-! ### Lane lengths (R450) -/

/-- The rounded-up quotient in R450, in the form that has a value for p ≥ n too. -/
theorem laneLength_eq_div {p L : Nat} (hp : p < L) (n : Nat) : laneLength n p L = (n + (L - 1 - p)) / L := by
  unfold laneLength
  split
  case isTrue => congr 1; omega
  case isFalse => exact (Nat.div_eq_of_lt (by omega)).symm

theorem laneLength_eq {p L : Nat} (hp : p < L) (n : Nat) :
    laneLength n p L = n / L + if p < n % L then 1 else 0 := by
  have hrest : L - 1 - p < L := by omega
  have hcarry : L ≤ n % L + (L - 1 - p) ↔ p < n % L := by omega
  rw [laneLength_eq_div hp, Nat.add_div (by omega), Nat.div_eq_of_lt hrest, Nat.mod_eq_of_lt hrest]
  simp only [hcarry, Nat.add_zero]

theorem lt_laneLength_iff {p L : Nat} (hp : p < L) (n j : Nat) : j < laneLength n p L ↔ p + j * L < n := by
  rw [laneLength_eq_div hp, ← Nat.succ_le_iff, Nat.le_div_iff_mul_le (by omega), Nat.succ_mul]
  omega

/-- Inside the lane as beyond its end, where both sides are 0. -/
theorem elem_laneOf_of_lt {p L : Nat} (hp : p < L) (s : List Int) (j : Nat) :
    elem (laneOf s p L) j = elem s (p + j * L) := by
  rw [elem_laneOf]
  split
  case isTrue => rfl
  case isFalse h =>
    rw [lt_laneLength_iff hp, not_lt] at h
    exact (elem_of_length_le _ _ h).symm

/-! ### The lengths of L lanes of n elements -/

/-- R451's lengths: the first `n mod L` lanes are one longer than the others. -/
def balancedLengths (n L : Nat) : List Nat :=
  List.replicate (n % L) (n / L + 1) ++ List.replicate (L - n % L) (n / L)

theorem length_balancedLengths {L : Nat} (hL : 0 < L) (n : Nat) : (balancedLengths n L).length = L := by
  have := Nat.mod_lt n hL
  simp [balancedLengths]; omega

theorem sum_balancedLengths {L : Nat} (hL : 0 < L) (n : Nat) : (balancedLengths n L).sum = n := by
  have hmod := (Nat.mod_lt n hL).le
  calc (balancedLengths n L).sum
      = n % L * (n / L + 1) + (L - n % L) * (n / L) := by simp [balancedLengths]
    _ = (n % L + (L - n % L)) * (n / L) + n % L := by ring
    _ = n := by rw [Nat.add_sub_cancel' hmod, Nat.div_add_mod]

theorem getElem_balancedLengths {n L p : Nat} (h : p < (balancedLengths n L).length) :
    (balancedLengths n L)[p] = n / L + if p < n % L then 1 else 0 := by
  simp only [balancedLengths, List.getElem_append, List.length_replicate, List.getElem_replicate]
  split <;> rfl

theorem eq_balancedLengths_iff {lens : List Nat} (hL : 0 < lens.length) (n : Nat) :
    lens = balancedLengths n lens.length ↔
      ∀ (p : Nat) (hp : p < lens.length), lens[p] = n / lens.length + if p < n % lens.length then 1 else 0 := by
  have hlen := length_balancedLengths hL n
  constructor
  · intro h p hp
    rw [← getElem_balancedLengths (by omega)]
    exact List.getElem_of_eq h hp
  · intro h
    refine List.ext_getElem hlen.symm fun p hp hp' => ?_
    rw [h p hp, getElem_balancedLengths]

theorem eq_replicate_append_replicate {q : Nat} {lens : List Nat} (hdesc : lens.Pairwise fun a b => b ≤ a)
    (hrange : ∀ x ∈ lens, q ≤ x ∧ x ≤ q + 1) :
    ∃ r m, lens = List.replicate r (q + 1) ++ List.replicate m q := by
  induction lens with
  | nil => exact ⟨0, 0, rfl⟩
  | cons x xs ih =>
    obtain ⟨hhead, htail⟩ := List.pairwise_cons.mp hdesc
    obtain ⟨hx, hxs⟩ := List.forall_mem_cons.mp hrange
    by_cases hxq : x = q
    · have hall : ∀ y ∈ xs, y = q := fun y hy => le_antisymm (hxq ▸ hhead y hy) (hxs y hy).1
      exact ⟨0, xs.length + 1, by rw [hxq, List.eq_replicate_of_mem hall]; simp [List.replicate_succ]⟩
    · obtain ⟨r, m, hrm⟩ := ih htail hxs
      have hxq' : x = q + 1 := by omega
      exact ⟨r + 1, m, by rw [hxq', hrm]; rfl⟩

theorem balancedLengths_replicate (q r m : Nat) (hm : 0 < m) :
    balancedLengths (r * (q + 1) + m * q) (r + m) = List.replicate r (q + 1) ++ List.replicate m q := by
  have htotal : r * (q + 1) + m * q = (r + m) * q + r := by ring
  have hdiv : ((r + m) * q + r) / (r + m) = q := by
    rw [Nat.mul_add_div (by omega), Nat.div_eq_of_lt (by omega), Nat.add_zero]
  have hmod : ((r + m) * q + r) % (r + m) = r := by
    rw [Nat.mul_add_mod, Nat.mod_eq_of_lt (by omega)]
  rw [balancedLengths, htotal, hdiv, hmod, Nat.add_sub_cancel_left]

/-! ### R451's equivalent condition -/

/-- `len(lanes[0]) ≥ ... ≥ len(lanes[L−1]) ≥ len(lanes[0]) − 1`, of the list of the lanes' lengths. -/
def DescendingByOne (lens : List Nat) : Prop :=
  lens.Pairwise (fun a b => b ≤ a) ∧ lens.getD 0 0 ≤ lens.getD (lens.length - 1) 0 + 1

theorem le_getD_zero {lens : List Nat} (hdesc : lens.Pairwise fun a b => b ≤ a) {x : Nat} (hx : x ∈ lens) :
    x ≤ lens.getD 0 0 := by
  cases lens with
  | nil => cases hx
  | cons a rest =>
    rcases List.mem_cons.mp hx with rfl | hrest
    · exact le_rfl
    · exact (List.pairwise_cons.mp hdesc).1 x hrest

theorem descendingByOne_balancedLengths {L : Nat} (hL : 0 < L) (n : Nat) : DescendingByOne (balancedLengths n L) := by
  have hlen := length_balancedLengths hL n
  constructor
  · simp [balancedLengths, List.pairwise_append, List.pairwise_replicate]
  · rw [List.getD_eq_getElem _ _ (by omega), List.getD_eq_getElem _ _ (by omega), getElem_balancedLengths,
      getElem_balancedLengths]
    split <;> omega

/-- With q the last length, every length is q or q + 1, and those of q + 1 come first. -/
theorem DescendingByOne.eq_balancedLengths {lens : List Nat} (hL : 0 < lens.length) (h : DescendingByOne lens) :
    lens = balancedLengths lens.sum lens.length := by
  obtain ⟨hdesc, hends⟩ := h
  obtain ⟨init, q, rfl⟩ := List.eq_nil_or_concat' lens |>.resolve_left (List.ne_nil_of_length_pos hL)
  obtain ⟨hinit, -, hlast⟩ := List.pairwise_append.mp hdesc
  have hlow : (init ++ [q]).getD ((init ++ [q]).length - 1) 0 = q := by simp
  rw [hlow] at hends
  have hrange : ∀ x ∈ init, q ≤ x ∧ x ≤ q + 1 := fun x hx =>
    ⟨hlast x hx q (by simp), (le_getD_zero hdesc (by simp [hx])).trans hends⟩
  obtain ⟨r, m, rfl⟩ := eq_replicate_append_replicate hinit hrange
  have hsplit : List.replicate r (q + 1) ++ List.replicate m q ++ [q] =
      List.replicate r (q + 1) ++ List.replicate (m + 1) q := by
    rw [List.append_assoc, ← List.replicate_succ']
  rw [hsplit]
  simpa using (balancedLengths_replicate q r (m + 1) (by omega)).symm

theorem descendingByOne_iff {lens : List Nat} (hL : 0 < lens.length) :
    DescendingByOne lens ↔ lens = balancedLengths lens.sum lens.length :=
  ⟨fun h => h.eq_balancedLengths hL, fun h => h ▸ descendingByOne_balancedLengths hL lens.sum⟩

/-! ### merge (R451) -/

theorem validLanes_iff {lanes : List (List Int)} (hL : 0 < lanes.length) :
    validLanes lanes ↔ lanes.map List.length = balancedLengths (totalLength lanes) lanes.length := by
  have hiff := eq_balancedLengths_iff (lens := lanes.map List.length) (by simpa using hL) (totalLength lanes)
  simp only [List.length_map, List.getElem_map] at hiff
  rw [hiff]
  simp only [validLanes, List.all_eq_true, List.mem_range, decide_eq_true_eq]
  refine forall₂_congr fun p hp => ?_
  rw [List.getD_eq_getElem _ _ hp]

/-- The output of `merge` on valid lanes. -/
def interleave (lanes : List (List Int)) : List Int :=
  (List.range (totalLength lanes)).map fun i => elem (lanes.getD (i % lanes.length) []) (i / lanes.length)

@[simp] theorem length_interleave (lanes : List (List Int)) : (interleave lanes).length = totalLength lanes := by
  simp [interleave]

theorem elem_interleave {lanes : List (List Int)} {i : Nat} (hi : i < totalLength lanes) :
    elem (interleave lanes) i = elem (lanes.getD (i % lanes.length) []) (i / lanes.length) := by
  rw [interleave, elem_map_range, if_pos hi]

theorem merge_of_validLanes {lanes : List (List Int)} (hL : 0 < lanes.length) (h : validLanes lanes) :
    merge lanes = .ok (interleave lanes) := if_pos ⟨List.ne_nil_of_length_pos hL, h⟩

theorem merge_of_not_validLanes {lanes : List (List Int)} (h : ¬ validLanes lanes) :
    merge lanes = .error .lengthMismatch := if_neg fun hvalid => h hvalid.2

theorem of_merge_eq_ok {lanes : List (List Int)} {out : List Int} (h : merge lanes = .ok out) :
    validLanes lanes ∧ out = interleave lanes := by
  unfold merge at h
  split at h
  case isTrue hvalid => exact ⟨hvalid.2, (Except.ok.inj h).symm⟩
  case isFalse => cases h

theorem validLanes_iff_descendingByOne {lanes : List (List Int)} (hL : 0 < lanes.length) :
    validLanes lanes ↔ DescendingByOne (lanes.map List.length) := by
  rw [validLanes_iff hL, descendingByOne_iff (by simpa using hL), List.length_map]
  rfl

theorem descendingByOne_map_length_iff (lanes : List (List Int)) :
    DescendingByOne (lanes.map List.length) ↔ (lanes.map List.length).Pairwise (fun a b => b ≤ a) ∧
      (lanes.getD 0 []).length ≤ (lanes.getD (lanes.length - 1) []).length + 1 := by
  have hgetD (i : Nat) : (lanes.map List.length).getD i 0 = (lanes.getD i []).length :=
    List.getD_map lanes [] List.length
  rw [DescendingByOne, hgetD, hgetD, List.length_map]

/-- Settles O55: `merge` decides by the balanced lengths, which R451's inequalities characterise. -/
theorem mergeFailsExactlyOnInvalidLanes : Obligations.MergeFailsExactlyOnInvalidLanes := by
  intro lanes hL
  rw [← descendingByOne_map_length_iff, ← validLanes_iff_descendingByOne hL]
  exact ⟨fun hvalid => ⟨_, merge_of_validLanes hL hvalid, length_interleave lanes, fun _ hi => elem_interleave hi⟩,
    merge_of_not_validLanes⟩

/-! ### split and merge (R452) -/

@[simp] theorem length_split (seq : List Int) (L : Nat) : (split seq L).length = L := by simp [split]

theorem getD_split {L p : Nat} (hp : p < L) (seq : List Int) : (split seq L).getD p [] = laneOf seq p L := by
  rw [List.getD_eq_getElem _ _ (by simpa using hp)]
  simp [split]

theorem map_length_split {L : Nat} (hL : 0 < L) (seq : List Int) :
    (split seq L).map List.length = balancedLengths seq.length L := by
  have hiff := eq_balancedLengths_iff (lens := (split seq L).map List.length) (by simpa using hL) seq.length
  simp only [List.length_map, length_split] at hiff
  refine hiff.mpr fun p hp => ?_
  simp [split, laneLength_eq hp]

theorem totalLength_split {L : Nat} (hL : 0 < L) (seq : List Int) : totalLength (split seq L) = seq.length := by
  rw [totalLength, map_length_split hL, sum_balancedLengths hL]

theorem validLanes_split {L : Nat} (hL : 0 < L) (seq : List Int) : validLanes (split seq L) := by
  rw [validLanes_iff (by simpa using hL), totalLength_split hL, length_split, map_length_split hL]

theorem interleave_split {L : Nat} (hL : 0 < L) (seq : List Int) : interleave (split seq L) = seq := by
  have htotal := totalLength_split hL seq
  refine ext_elem (by rw [length_interleave, htotal]) fun i hi => ?_
  rw [elem_interleave (by simpa using hi), length_split, getD_split (Nat.mod_lt i hL),
    elem_laneOf_of_lt (Nat.mod_lt i hL), Nat.mod_add_div']

theorem merge_split {L : Nat} (hL : 0 < L) (seq : List Int) : merge (split seq L) = .ok seq := by
  rw [merge_of_validLanes (by simpa using hL) (validLanes_split hL seq), interleave_split hL]

/-- Element j of lane p stands at p + j * L, whose quotient and remainder by L are j and p. -/
theorem laneOf_interleave {lanes : List (List Int)} (hvalid : validLanes lanes) {p : Nat} (hp : p < lanes.length) :
    laneOf (interleave lanes) p lanes.length = lanes[p] := by
  have hL : 0 < lanes.length := by omega
  have hlen : (laneOf (interleave lanes) p lanes.length).length = lanes[p].length := by
    have hbalanced := List.getElem_of_eq ((validLanes_iff hL).mp hvalid) (by simpa using hp : p < _)
    rw [List.getElem_map, getElem_balancedLengths] at hbalanced
    rw [length_laneOf, length_interleave, laneLength_eq hp, hbalanced]
  refine ext_elem hlen fun j hj => ?_
  rw [length_laneOf, length_interleave, lt_laneLength_iff hp] at hj
  rw [elem_laneOf_of_lt hp, elem_interleave hj, Nat.add_mul_mod_self_right, Nat.mod_eq_of_lt hp,
    Nat.add_mul_div_right _ _ hL, Nat.div_eq_of_lt hp, Nat.zero_add, List.getD_eq_getElem _ _ hp]

theorem split_interleave {lanes : List (List Int)} (hvalid : validLanes lanes) :
    split (interleave lanes) lanes.length = lanes := by
  refine List.ext_getElem (length_split _ _) fun p _ hp => ?_
  rw [← laneOf_interleave hvalid hp]
  simp [split]

theorem split_one (seq : List Int) : split seq 1 = [seq] := by
  have hlane : laneOf seq 0 1 = seq :=
    ext_elem (by simp [laneLength_eq Nat.one_pos, Nat.mod_one]) fun j _ => by rw [elem_laneOf_of_lt Nat.one_pos]; simp
  simp [split, hlane]

theorem split_nil (L : Nat) : split [] L = List.replicate L [] := by
  simp [split, laneOf, laneLength]

/-- Settles O54: valid lanes are the lanes of their interleaving; the special cases follow from `merge_split`. -/
theorem splitMergeBijection : Obligations.SplitMergeBijection := by
  refine ⟨fun seq L hL => merge_split hL seq, ?_, fun seq => ⟨split_one seq, ?_⟩, fun L hL => ⟨split_nil L, ?_⟩⟩
  · intro lanes out _ hmerge
    obtain ⟨hvalid, rfl⟩ := of_merge_eq_ok hmerge
    exact split_interleave hvalid
  · exact split_one seq ▸ merge_split Nat.one_pos seq
  · exact split_nil L ▸ merge_split hL []

end Sys2Proof
end

section
/-! The convolution sum at any integer index: it is causal and linear in taps and samples, and its even and odd indices are
the lane convolutions of the FFA algebra (42_ffa_datapath.md R500, R506 to R508). -/

namespace Sys2Proof

variable (h x : List Int)

/-- The sum of 00_scope.md R15 at an index that may be negative; `conv` holds it at the indices of the samples. -/
def convZ (h x : List Int) (i : Int) : Int := sumTo (fun k => elem h k * elemZ x (i - k)) h.length

theorem convAt_eq_convZ (n : Nat) : convAt h x n = convZ h x n := rfl

theorem convZ_of_neg {i : Int} (hi : i < 0) : convZ h x i = 0 := by
  have hterms : ∀ k, 0 ≤ k → k < h.length → elem h k * elemZ x (i - k) = 0 := fun k _ _ => by
    rw [elemZ_of_neg x _ (by omega), mul_zero]
  exact sumTo_of_zero_beyond (Nat.zero_le _) hterms

theorem elemZ_conv_of_lt {i : Int} (hi : i < x.length) : elemZ (conv h x) i = convZ h x i := by
  rw [elemZ_conv]
  split
  case isTrue => rfl
  case isFalse hneg => rw [convZ_of_neg h x (by omega)]

/-- Causality: only the samples up to index i count. -/
theorem convZ_congr {x x' : List Int} {i : Int} (hx : ∀ j ≤ i, elemZ x j = elemZ x' j) : convZ h x i = convZ h x' i :=
  sumTo_congr fun k _ => by rw [hx (i - k) (by omega)]

theorem conv_append_singleton (v : Int) : conv h (x ++ [v]) = conv h x ++ [convZ h (x ++ [v]) x.length] := by
  have hpast : ∀ n ∈ List.range x.length, convAt h (x ++ [v]) n = convAt h x n := fun n hn =>
    convZ_congr h fun j hj => elemZ_append_lt x v j (by have := List.mem_range.mp hn; omega)
  simp only [conv, List.length_append, List.length_singleton, List.range_succ, List.map_append, List.map_singleton,
    List.map_congr_left hpast, convAt_eq_convZ]

/-! ### Linearity (00_scope.md R16) -/

theorem convZ_eq_sumTo_of_le {n : Nat} (hn : h.length ≤ n) (i : Int) :
    convZ h x i = sumTo (fun k => elem h k * elemZ x (i - k)) n :=
  (sumTo_of_zero_beyond hn fun k hk _ => by rw [elem_of_length_le h k hk, zero_mul]).symm

theorem elem_seqAdd (a b : List Int) (i : Nat) : elem (seqAdd a b) i = elem a i + elem b i := by
  rw [seqAdd, elem_map_range]
  split
  case isTrue => rfl
  case isFalse hi => rw [elem_of_length_le a i (by omega), elem_of_length_le b i (by omega), add_zero]

theorem elem_seqSub (a b : List Int) (i : Nat) : elem (seqSub a b) i = elem a i - elem b i := by
  rw [seqSub, elem_map_range]
  split
  case isTrue => rfl
  case isFalse hi => rw [elem_of_length_le a i (by omega), elem_of_length_le b i (by omega), sub_zero]

@[simp] theorem length_seqAdd (a b : List Int) : (seqAdd a b).length = max a.length b.length := by simp [seqAdd]

@[simp] theorem length_seqSub (a b : List Int) : (seqSub a b).length = max a.length b.length := by simp [seqSub]

theorem elemZ_seqAdd (a b : List Int) (i : Int) : elemZ (seqAdd a b) i = elemZ a i + elemZ b i := by
  unfold elemZ
  split
  case isTrue => rfl
  case isFalse => exact elem_seqAdd a b _

theorem convZ_seqAdd_left (a b : List Int) (i : Int) : convZ (seqAdd a b) x i = convZ a x i + convZ b x i := by
  have ha : a.length ≤ max a.length b.length := le_max_left _ _
  have hb : b.length ≤ max a.length b.length := le_max_right _ _
  rw [convZ_eq_sumTo_of_le a x ha, convZ_eq_sumTo_of_le b x hb, ← sumTo_add, convZ, length_seqAdd]
  exact sumTo_congr fun k _ => by rw [elem_seqAdd, add_mul]

theorem convZ_seqAdd_right (y : List Int) (i : Int) : convZ h (seqAdd x y) i = convZ h x i + convZ h y i := by
  rw [convZ, convZ, convZ, ← sumTo_add]
  exact sumTo_congr fun k _ => by rw [elemZ_seqAdd, mul_add]

/-! ### The two phases -/

/-- The sum over the taps of one lane; f is what each of them multiplies. -/
theorem convZ_eq_sumTo_lanes (i : Int) : convZ h x i =
    sumTo (fun j => elem (laneOf h 0 2) j * elemZ x (i - 2 * j)) (laneOf h 0 2).length +
      sumTo (fun j => elem (laneOf h 1 2) j * elemZ x (i - 1 - 2 * j)) (laneOf h 1 2).length := by
  simp only [convZ, sumTo_parity _ h.length, elem_laneOf_zero, elem_laneOf_one, length_laneOf, laneLength_zero_two,
    laneLength_one_two]
  push_cast
  simp only [sub_add_eq_sub_sub, sub_right_comm i 1]

/-- R507: `Y0[n] = A0[n] + A1[n−1]`. -/
theorem convZ_even (n : Int) : convZ h x (2 * n) =
    convZ (laneOf h 0 2) (laneOf x 0 2) n + convZ (laneOf h 1 2) (laneOf x 1 2) (n - 1) := by
  rw [convZ_eq_sumTo_lanes]
  congr 1 <;> refine sumTo_congr fun j _ => ?_
  · rw [elemZ_laneOf_zero, mul_sub]
  · rw [elemZ_laneOf_one]; congr 2; ring

/-- The odd outputs by the two crossed lane convolutions, which the block has no MAC units for. -/
theorem convZ_odd (n : Int) : convZ h x (2 * n + 1) =
    convZ (laneOf h 0 2) (laneOf x 1 2) n + convZ (laneOf h 1 2) (laneOf x 0 2) n := by
  rw [convZ_eq_sumTo_lanes]
  congr 1 <;> refine sumTo_congr fun j _ => ?_
  · rw [elemZ_laneOf_one]; congr 2; ring
  · rw [elemZ_laneOf_zero]; congr 2; ring

/-- R508: `Y1[n] = S[n] − A0[n] − A1[n]`, since the sum lane's product holds the crossed convolutions and the other two. -/
theorem convZ_odd_eq_sum_lane (n : Int) : convZ h x (2 * n + 1) =
    convZ (seqAdd (laneOf h 0 2) (laneOf h 1 2)) (seqAdd (laneOf x 0 2) (laneOf x 1 2)) n -
      convZ (laneOf h 0 2) (laneOf x 0 2) n - convZ (laneOf h 1 2) (laneOf x 1 2) n := by
  simp only [convZ_odd, convZ_seqAdd_left, convZ_seqAdd_right]
  ring

/-! ### The batch form -/

theorem ffaLanes_fst : (ffaLanes h x).1 = laneOf (conv h x) 0 2 := by
  refine ext_elem (by simp [ffaLanes]) fun n hn => ?_
  have hlen : n < (laneOf x 0 2).length := by simpa [ffaLanes] using hn
  have hpast : (n : Int) - 1 < (laneOf x 1 2).length ∧ 2 * n < x.length := by
    simp only [length_laneOf, laneLength_zero_two, laneLength_one_two] at hlen ⊢
    omega
  rw [elem_laneOf_zero, elem_conv h x _ hpast.2, convAt_eq_convZ, Nat.cast_mul, Nat.cast_two, convZ_even,
    ← elemZ_conv_of_lt _ _ hpast.1]
  simp only [ffaLanes, elem_map_range, if_pos hlen, elem_conv _ _ n hlen, convAt_eq_convZ]

theorem ffaLanes_snd : (ffaLanes h x).2 = laneOf (conv h x) 1 2 := by
  have hle : x.length / 2 ≤ (x.length + 1) / 2 := by omega
  refine ext_elem (by simp [ffaLanes, hle]) fun n hn => ?_
  have hlen : n < (laneOf x 1 2).length := by simpa [ffaLanes, hle] using hn
  have hlen0 : n < (laneOf x 0 2).length := by
    simp only [length_laneOf, laneLength_zero_two, laneLength_one_two] at hlen ⊢
    omega
  have hodd : 2 * n + 1 < x.length := by
    simp only [length_laneOf, laneLength_one_two] at hlen
    omega
  rw [elem_laneOf_one, elem_conv h x _ hodd, convAt_eq_convZ, Nat.cast_succ, Nat.cast_mul, Nat.cast_two,
    convZ_odd_eq_sum_lane]
  simp only [ffaLanes, elem_take, if_pos hlen, elem_seqSub, elem_conv _ _ n hlen, elem_conv _ _ n hlen0,
    elem_conv _ (seqAdd _ _) n (lt_of_lt_of_le hlen (length_seqAdd _ _ ▸ le_max_right _ _)), convAt_eq_convZ]

theorem refFir_eq_some {ys : List Int} (hys : refFir h x = some ys) : h ≠ [] ∧ x ≠ [] ∧ ys = conv h x := by
  unfold refFir at hys
  split at hys
  case isTrue => cases hys
  case isFalse hne =>
    obtain ⟨hh, hx⟩ := not_or.mp hne
    exact ⟨hh, hx, (Option.some.inj hys).symm⟩

/-- Settles O53: the two lane outputs are the lanes of the direct-form output, and merging undoes splitting. -/
theorem batchFfaEqualsReferenceFir : Obligations.BatchFfaEqualsReferenceFir := by
  intro h x ys hys
  obtain ⟨-, -, rfl⟩ := refFir_eq_some h x hys
  rw [ffaBatch, ffaLanes_fst, ffaLanes_snd]
  exact merge_split Nat.two_pos (conv h x)

end Sys2Proof
end

section
/-! The lane steps of a running filter (42_ffa_datapath.md R503, R504): each appends its sample to one lane of the stream, and
its output is the direct-form output at the sample's index (R506 to R508). -/

namespace Sys2Proof

/-! ### Windows into a sequence -/

/-- The K elements of x from index i downwards: what 10_state.md R108 and R109 say of a history. -/
def window (K : Nat) (x : List Int) (i : Int) : List Int := (List.range K).map fun (j : Nat) => elemZ x (i - j)

@[simp] theorem length_window (K : Nat) (x : List Int) (i : Int) : (window K x i).length = K := by simp [window]

theorem elem_window {K j : Nat} (hj : j < K) (x : List Int) (i : Int) : elem (window K x i) j = elemZ x (i - j) := by
  rw [window, elem_map_range, if_pos hj]

theorem window_congr (K : Nat) {x x' : List Int} {i : Int} (h : ∀ j ≤ i, elemZ x j = elemZ x' j) :
    window K x i = window K x' i := List.map_congr_left fun j _ => h _ (by omega)

/-- Shifting in the next element moves a window up by one. -/
theorem shiftIn_window (K : Nat) {v : Int} {x x' : List Int} {i : Int} (hv : elemZ x' i = v)
    (h : ∀ j ≤ i - 1, elemZ x j = elemZ x' j) : shiftIn v (window K x (i - 1)) = window K x' i := by
  refine ext_elem (by simp) fun j hj => ?_
  rw [length_shiftIn, length_window] at hj
  rw [elem_window hj]
  match j with
  | 0 => rw [elem_shiftIn_zero _ _ (by simpa using hj), ← hv]; simp
  | j + 1 =>
    rw [elem_shiftIn_succ _ _ _ (by simpa using hj), elem_window (by omega), h _ (by omega)]
    congr 1
    push_cast
    ring

theorem elemZ_append_of_le_pred (x : List Int) (v : Int) : ∀ j ≤ (x.length : Int) - 1, elemZ x j = elemZ (x ++ [v]) j :=
  fun j hj => (elemZ_append_lt x v j (by omega)).symm

theorem shiftIn_window_append (K : Nat) (x : List Int) (v : Int) :
    shiftIn v (window K x (x.length - 1)) = window K (x ++ [v]) x.length :=
  shiftIn_window K (elemZ_append_eq x v) (elemZ_append_of_le_pred x v)

/-! ### The lanes of a sequence with one more element (41_lane_splitter.md R454) -/

variable {x : List Int} {n : Nat} (v : Int)

theorem laneOf_zero_append_of_even (hx : x.length = 2 * n) : laneOf (x ++ [v]) 0 2 = laneOf x 0 2 ++ [v] := by
  refine ext_elem (by simp; omega) fun j hj => ?_
  have hj : j ≤ n := by simp at hj; omega
  have hlen : (laneOf x 0 2).length = n := by simp; omega
  rw [elem_laneOf_zero, elem_append, elem_append, hlen, hx, elem_laneOf_zero]
  obtain hlt | rfl := hj.lt_or_eq
  · rw [if_pos (by omega), if_pos hlt]
  · simp

theorem laneOf_one_append_of_even (hx : x.length = 2 * n) : laneOf (x ++ [v]) 1 2 = laneOf x 1 2 := by
  refine ext_elem (by simp; omega) fun j hj => ?_
  have hj : j < n := by simp at hj; omega
  rw [elem_laneOf_one, elem_append, if_pos (by omega), elem_laneOf_one]

theorem laneOf_zero_append_of_odd (hx : x.length = 2 * n + 1) : laneOf (x ++ [v]) 0 2 = laneOf x 0 2 := by
  refine ext_elem (by simp; omega) fun j hj => ?_
  have hj : j ≤ n := by simp at hj; omega
  rw [elem_laneOf_zero, elem_append, if_pos (by omega), elem_laneOf_zero]

theorem laneOf_one_append_of_odd (hx : x.length = 2 * n + 1) : laneOf (x ++ [v]) 1 2 = laneOf x 1 2 ++ [v] := by
  refine ext_elem (by simp; omega) fun j hj => ?_
  have hj : j ≤ n := by simp at hj; omega
  have hlen : (laneOf x 1 2).length = n := by simp; omega
  rw [elem_laneOf_one, elem_append, elem_append, hlen, hx, elem_laneOf_one]
  obtain hlt | rfl := hj.lt_or_eq
  · rw [if_pos (by omega), if_pos hlt]
  · simp

end Sys2Proof

namespace Sys2Proof.Machine

open Sys2Proof

variable {s : State} {x x0 x1 : List Int} {n : Nat} {v : Int}

/-! ### The filter state, lane by lane -/

/-- What 10_state.md R108 to R111 say of the filter state once lane 0 has taken the samples x0 and lane 1 the samples x1. -/
structure LaneState (s : State) (x0 x1 : List Int) : Prop where
  xh0 : s.xh0 = window s.params.k0 x0 (x0.length - 1)
  xh1 : s.xh1 = window s.params.k1 x1 (x1.length - 1)
  xhs : s.xhs = window s.params.k0 (seqAdd x0 x1) (x1.length - 1)
  align : s.align = convZ (laneOf (tapsOf s) 1 2) x1 (x1.length - 1)
  a0hold : s.a0hold = convZ (laneOf (tapsOf s) 0 2) x0 (x0.length - 1)

/-- A stream is its frame, its two counters and its lanes. -/
theorem streams_iff : Streams s x ↔ s.mode = .run ∧ (∀ v ∈ x, InRangeS v s.params.wx) ∧ s.phase.bit = x.length % 2 ∧
    s.scount = BitVec.ofNat 32 x.length ∧ LaneState s (laneOf x 0 2) (laneOf x 1 2) := by
  have hconv (h y : List Int) : elemZ (conv h y) ((y.length : Int) - 1) = convZ h y (y.length - 1) :=
    elemZ_conv_of_lt h y (by omega)
  have hsum (i : Int) : window s.params.k0 (seqAdd (laneOf x 0 2) (laneOf x 1 2)) i = (List.range s.params.k0).map
      fun (j : Nat) => elemZ (laneOf x 0 2) (i - j) + elemZ (laneOf x 1 2) (i - j) := by
    simp only [window, elemZ_seqAdd]
  constructor
  · rintro ⟨hrun, hrange, hphase, hcount, hxh0, hxh1, hxhs, halign, ha0⟩
    simp only [← length_laneOf, ← hsum, hconv] at hxh0 hxh1 hxhs halign ha0
    exact ⟨hrun, hrange, hphase, hcount, hxh0, hxh1, hxhs, halign, ha0⟩
  · rintro ⟨hrun, hrange, hphase, hcount, hxh0, hxh1, hxhs, halign, ha0⟩
    rw [← hconv] at halign ha0
    simp only [hsum, length_laneOf] at hxh0 hxh1 hxhs halign ha0
    exact ⟨hrun, hrange, hphase, hcount, hxh0, hxh1, hxhs, halign, ha0⟩

/-! ### The MAC units over windows (R502) -/

theorem mac0_window (hi : Inv s) (hr : s.mode = .run) (y : List Int) (i : Int) :
    mac0 s (window s.params.k0 y i) = convZ (laneOf (tapsOf s) 0 2) y i := by
  have hlen : (laneOf (tapsOf s) 0 2).length = (s.ntaps + 1) / 2 := by simp [length_tapsOf hi]
  rw [mac0_eq_lane_sum hi hr _ _ fun j hj => elem_window hj y i, convZ, hlen]

theorem mac1_window (hi : Inv s) (hr : s.mode = .run) (y : List Int) (i : Int) :
    mac1 s (window s.params.k1 y i) = convZ (laneOf (tapsOf s) 1 2) y i := by
  have hlen : (laneOf (tapsOf s) 1 2).length = s.ntaps / 2 := by simp [length_tapsOf hi]
  rw [mac1_eq_lane_sum hi hr _ _ fun j hj => elem_window hj y i, convZ, hlen]

theorem macs_window (hi : Inv s) (hr : s.mode = .run) (y : List Int) (i : Int) : macs s (window s.params.k0 y i) =
    convZ (seqAdd (laneOf (tapsOf s) 0 2) (laneOf (tapsOf s) 1 2)) y i := by
  have hlen0 : (laneOf (tapsOf s) 0 2).length = (s.ntaps + 1) / 2 := by simp [length_tapsOf hi]
  have hlen1 : (laneOf (tapsOf s) 1 2).length = s.ntaps / 2 := by simp [length_tapsOf hi]
  rw [macs_eq_lane_sums hi hr _ _ fun j hj => elem_window hj y i, convZ_seqAdd_left, convZ, convZ, hlen0, hlen1]

/-! ### The lane-0 step (R503) -/

theorem LaneState.shiftIn_xh0 (h : LaneState s x0 x1) (v : Int) :
    shiftIn v s.xh0 = window s.params.k0 (x0 ++ [v]) x0.length := by
  rw [h.xh0, shiftIn_window_append]

theorem LaneState.mac0_shiftIn (h : LaneState s x0 x1) (hi : Inv s) (hr : s.mode = .run) (v : Int) :
    mac0 s (shiftIn v s.xh0) = convZ (laneOf (tapsOf s) 0 2) (x0 ++ [v]) x0.length := by
  rw [h.shiftIn_xh0, mac0_window hi hr]

theorem LaneState.output0 (h : LaneState s x0 x1) (hi : Inv s) (hr : s.mode = .run) (v : Int) : output0 s v =
    convZ (laneOf (tapsOf s) 0 2) (x0 ++ [v]) x0.length + convZ (laneOf (tapsOf s) 1 2) x1 (x1.length - 1) := by
  rw [Machine.output0, h.mac0_shiftIn hi hr, h.align]

/-- Lane 0 is written where lane 1 has caught up, so the sum history's window is behind the new sample. -/
theorem LaneState.step0 (h : LaneState s x0 x1) (hi : Inv s) (hr : s.mode = .run) (hlen : x0.length = x1.length)
    (v : Int) : LaneState (s.step0 v) (x0 ++ [v]) x1 := by
  have hlast : (((x0 ++ [v]).length : Nat) : Int) - 1 = x0.length := by simp
  refine ⟨?_, h.xh1, ?_, h.align, ?_⟩
  · rw [hlast]; exact h.shiftIn_xh0 v
  · refine h.xhs.trans (window_congr _ fun j hj => ?_)
    rw [elemZ_seqAdd, elemZ_seqAdd, elemZ_append_of_le_pred x0 v j (by omega)]
  · rw [hlast]; exact h.mac0_shiftIn hi hr v

/-! ### The lane-1 step (R504) -/

theorem LaneState.shiftIn_xh1 (h : LaneState s x0 x1) (v : Int) :
    shiftIn v s.xh1 = window s.params.k1 (x1 ++ [v]) x1.length := by
  rw [h.xh1, shiftIn_window_append]

theorem LaneState.mac1_shiftIn (h : LaneState s x0 x1) (hi : Inv s) (hr : s.mode = .run) (v : Int) :
    mac1 s (shiftIn v s.xh1) = convZ (laneOf (tapsOf s) 1 2) (x1 ++ [v]) x1.length := by
  rw [h.shiftIn_xh1, mac1_window hi hr]

/-- In lane 1 the newest sample of lane 0 is the new sample's partner. -/
theorem LaneState.elem_xh0_zero (h : LaneState s x0 x1) (hl : s.params.Legal) (hlen : x0.length = x1.length + 1) :
    elem s.xh0 0 = elem x0 x1.length := by
  rw [h.xh0, elem_window (Params.k0_pos hl), ← elemZ_natCast]
  congr 1
  push_cast [hlen]
  ring

theorem LaneState.shiftIn_xhs (h : LaneState s x0 x1) (hl : s.params.Legal) (hlen : x0.length = x1.length + 1)
    (v : Int) : shiftIn (preAdd s v) s.xhs = window s.params.k0 (seqAdd x0 (x1 ++ [v])) x1.length := by
  rw [h.xhs, preAdd, h.elem_xh0_zero hl hlen]
  refine shiftIn_window _ ?_ fun j hj => ?_
  · rw [elemZ_seqAdd, elemZ_append_eq, elemZ_natCast]
  · rw [elemZ_seqAdd, elemZ_seqAdd, elemZ_append_of_le_pred x1 v j hj]

theorem LaneState.output1 (h : LaneState s x0 x1) (hi : Inv s) (hr : s.mode = .run) (hlen : x0.length = x1.length + 1)
    (v : Int) : output1 s v =
      convZ (seqAdd (laneOf (tapsOf s) 0 2) (laneOf (tapsOf s) 1 2)) (seqAdd x0 (x1 ++ [v])) x1.length -
        convZ (laneOf (tapsOf s) 0 2) x0 x1.length - convZ (laneOf (tapsOf s) 1 2) (x1 ++ [v]) x1.length := by
  have hlast : (x0.length : Int) - 1 = x1.length := by omega
  rw [Machine.output1, h.shiftIn_xhs hi.legal hlen, macs_window hi hr, h.mac1_shiftIn hi hr, h.a0hold, hlast]

theorem LaneState.step1 (h : LaneState s x0 x1) (hi : Inv s) (hr : s.mode = .run) (hlen : x0.length = x1.length + 1)
    (v : Int) : LaneState (s.step1 v) x0 (x1 ++ [v]) := by
  have hlast : (((x1 ++ [v]).length : Nat) : Int) - 1 = x1.length := by simp
  refine ⟨h.xh0, ?_, ?_, ?_, h.a0hold⟩
  · rw [hlast]; exact h.shiftIn_xh1 v
  · rw [hlast]; exact h.shiftIn_xhs hi.legal hlen v
  · rw [hlast]; exact h.mac1_shiftIn hi hr v

/-- The lanes do not see the sequencing of a PUSH. -/
theorem LaneState.advance (h : LaneState s x0 x1) : LaneState s.advance x0 x1 := { h with }

/-! ### One sample of a stream -/

theorem Streams.laneState (h : Streams s x) : LaneState s (laneOf x 0 2) (laneOf x 1 2) :=
  let ⟨_, _, _, _, hlanes⟩ := streams_iff.mp h
  hlanes

theorem Streams.length_of_lane0 (h : Streams s x) (hp : s.phase = .lane0) : ∃ n, x.length = 2 * n := by
  have hbit := h.phase
  rw [hp, Lane.bit] at hbit
  exact ⟨x.length / 2, by omega⟩

theorem Streams.length_of_lane1 (h : Streams s x) (hp : s.phase = .lane1) : ∃ n, x.length = 2 * n + 1 := by
  have hbit := h.phase
  rw [hp, Lane.bit] at hbit
  exact ⟨x.length / 2, by omega⟩

/-- R506: the lane that the phase selects answers the direct-form output at the sample's index. -/
theorem Streams.laneOutput_eq (h : Streams s x) (hi : Inv s) (v : Int) :
    laneOutput s v = convZ (tapsOf s) (x ++ [v]) x.length := by
  obtain hp | hp := s.phase.eq_lane0_or_lane1
  · obtain ⟨n, hx⟩ := h.length_of_lane0 hp
    have hx0 : (laneOf x 0 2).length = n := by simp; omega
    have hx1 : (laneOf x 1 2).length = n := by simp; omega
    rw [laneOutput_lane0 v hp, h.laneState.output0 hi h.run, hx0, hx1, hx, Nat.cast_mul, Nat.cast_two, convZ_even,
      laneOf_zero_append_of_even v hx, laneOf_one_append_of_even v hx]
  · obtain ⟨n, hx⟩ := h.length_of_lane1 hp
    have hx0 : (laneOf x 0 2).length = n + 1 := by simp; omega
    have hx1 : (laneOf x 1 2).length = n := by simp; omega
    rw [laneOutput_lane1 v hp, h.laneState.output1 hi h.run (by omega), hx1, hx, Nat.cast_succ, Nat.cast_mul,
      Nat.cast_two, convZ_odd_eq_sum_lane, laneOf_zero_append_of_odd v hx, laneOf_one_append_of_odd v hx]

theorem Streams.laneStep_laneState (h : Streams s x) (hi : Inv s) (v : Int) :
    LaneState (s.laneStep v) (laneOf (x ++ [v]) 0 2) (laneOf (x ++ [v]) 1 2) := by
  obtain hp | hp := s.phase.eq_lane0_or_lane1
  · obtain ⟨n, hx⟩ := h.length_of_lane0 hp
    rw [State.laneStep_lane0 s v hp, laneOf_zero_append_of_even v hx, laneOf_one_append_of_even v hx]
    exact h.laneState.step0 hi h.run (by simp [hx]; omega) v
  · obtain ⟨n, hx⟩ := h.length_of_lane1 hp
    rw [State.laneStep_lane1 s v hp, laneOf_zero_append_of_odd v hx, laneOf_one_append_of_odd v hx]
    exact h.laneState.step1 hi h.run (by simp [hx]; omega) v

/-- An accepted sample is appended to the stream. -/
theorem Streams.push (h : Streams s x) (hi : Inv s) (hv : InRangeS v s.params.wx) :
    Streams (s.laneStep v).advance (x ++ [v]) := by
  refine streams_iff.mpr ⟨by simpa using h.run, ?_, ?_, ?_, (h.laneStep_laneState hi v).advance⟩
  · rw [State.advance_params, State.laneStep_params, List.forall_mem_append, List.forall_mem_singleton]
    exact ⟨h.inRange, hv⟩
  · rw [State.advance_phase, State.laneStep_phase, Lane.bit_next, h.phase, List.length_append, List.length_singleton]
    omega
  · rw [State.advance_scount, State.laneStep_scount, h.scount, List.length_append, List.length_singleton,
      BitVec.ofNat_add]
    rfl

theorem tapsOf_laneStep_advance (s : State) (v : Int) : tapsOf (s.laneStep v).advance = tapsOf s := by simp [tapsOf]

/-- A stream does not see the response port. -/
theorem Streams.with_rsp (h : Streams s x) (r : Option Response) : Streams { s with rsp := r } x :=
  streams_congr h rfl rfl rfl rfl rfl rfl rfl rfl rfl rfl

/-- R506: the taps are the first `ntaps` coefficient registers. -/
theorem convZ_tapsOf (hi : Inv s) (y : List Int) (i : Int) :
    convZ (tapsOf s) y i = ∑ k ∈ Finset.range s.ntaps, elem s.coef k * elemZ y (i - k) := by
  rw [convZ, length_tapsOf hi, ← sumTo_eq_sum]
  exact sumTo_congr fun k hk => by rw [elem_tapsOf, if_pos hk]

theorem succeeds_push (hr : s.mode = .run) (hopen : s.blkRemain ≠ 0) (hv : InRangeS v s.params.wx) :
    Succeeds (.push v) s (signedPattern s.params.wrsp (laneOutput s v)) (s.laneStep v).advance := by
  rw [Succeeds, exec_push, if_neg (not_not.mpr hr), if_neg hopen, if_neg (not_not.mpr hv)]

/-- Settles O47: the phase's lane answers the direct-form output, and the stream is longer by the sample. -/
theorem pushAnswersReferenceOutput : Obligations.PushAnswersReferenceOutput := by
  intro s x v hi hs hopen hv y hy
  have hout : laneOutput s v = y := by rw [hs.laneOutput_eq hi, convZ_tapsOf hi, hy]
  exact ⟨_, succeeds_push hs.run hopen hv, (hs.push hi hv).with_rsp _, tapsOf_laneStep_advance s v, by rw [hout]⟩

/-! ### One PUSH in each lane -/

/-- Settles O36: the history is not empty, so shifting puts the sample in front; the lane position is half the index. -/
theorem pushLaneZeroStep : Obligations.PushLaneZeroStep := by
  constructor
  · rintro x s hr hopen hx hp hl hsized xh0 a0 rfl rfl
    have hshift : shiftIn x s.xh0 = x :: s.xh0.take (s.params.k0 - 1) := by
      rw [shiftIn_eq_cons _ _ (hsized.xh0 ▸ Params.k0_pos hl), hsized.xh0]
    rw [succeeds_push hr hopen hx, laneOutput_lane0 x hp, State.laneStep_lane0 s x hp, output0, State.step0, hshift,
      mac0, mac_eq_sum]
    simp only [State.advance, hp, Lane.next]
  · intro xs x s hs hp
    obtain ⟨n, hlen⟩ := hs.length_of_lane0 hp
    have halign := hs.align
    rw [hlen, laneLength_one_two, show 2 * n / 2 = n by omega] at halign
    refine ⟨n, hlen, ?_, halign, fun hn => by rw [halign, hn, elemZ_of_neg _ _ (by decide)]⟩
    rw [elem_laneOf_zero, ← hlen, ← elemZ_natCast, elemZ_append_eq]

/-- Settles O37: as in lane 0, but the lane-1 history can be empty, where shifting leaves it so. -/
theorem pushLaneOneStep : Obligations.PushLaneOneStep := by
  constructor
  · rintro x s hr hopen hx hp hl hsized xh1 xhs a1 sm hxh1 rfl rfl rfl
    have hshift1 : shiftIn x s.xh1 = xh1 := by
      rw [hxh1]
      split
      case isTrue hk => rw [List.length_eq_zero_iff.mp (hsized.xh1.trans hk), shiftIn_nil]
      case isFalse hk => rw [shiftIn_eq_cons _ _ (hsized.xh1 ▸ Nat.pos_of_ne_zero hk), hsized.xh1]
    have hshifts : shiftIn (preAdd s x) s.xhs = (elem s.xh0 0 + x) :: s.xhs.take (s.params.k0 - 1) := by
      rw [shiftIn_eq_cons _ _ (hsized.xhs ▸ Params.k0_pos hl), hsized.xhs, preAdd]
    rw [succeeds_push hr hopen hx, laneOutput_lane1 x hp, State.laneStep_lane1 s x hp, output1, State.step1, hshift1,
      hshifts, mac1, macs, mac_eq_sum, mac_eq_sum]
    simp only [State.advance, hp, Lane.next]
  · intro xs x s hl hs hp
    obtain ⟨n, hlen⟩ := hs.length_of_lane1 hp
    have hx1 : (laneOf xs 1 2).length = n := by simp [hlen]; omega
    have hx0 : (laneOf xs 0 2).length = (laneOf xs 1 2).length + 1 := by simp [hlen]; omega
    have ha0 := hs.a0hold
    rw [hlen, laneLength_zero_two, show ((2 * n + 1 + 1) / 2 : Nat) = n + 1 by omega, Nat.cast_succ,
      add_sub_cancel_right, elemZ_natCast] at ha0
    refine ⟨n, hlen, ?_, hx1 ▸ hs.laneState.elem_xh0_zero hl hx0, ha0⟩
    rw [elem_laneOf_one, ← hlen, ← elemZ_natCast, elemZ_append_eq]

end Sys2Proof.Machine
end

section
/-! The bounds of the datapath (42_ffa_datapath.md R505): products of taps and samples, sums of them, and the widths they fit. -/

namespace Sys2Proof.Machine

open Sys2Proof

variable {p : Params} {s : State} {h x : List Int} {v y : Int}

/-! ### Sums of products -/

theorem abs_convZ_le {A B : Int} (hA : 0 ≤ A) (hB : 0 ≤ B) (hh : ∀ c ∈ h, |c| ≤ A) (hx : ∀ v ∈ x, |v| ≤ B) (i : Int) :
    |convZ h x i| ≤ h.length * (A * B) := by
  refine abs_sumTo_le fun k _ => ?_
  have htap : |elem h k| ≤ A := (elem_mem_or_zero h k).elim (hh _) fun h0 => by rwa [h0, abs_zero]
  have hsample : |elemZ x (i - k)| ≤ B := (elemZ_mem_or_zero x _).elim (hx _) fun h0 => by rwa [h0, abs_zero]
  rw [abs_mul]
  exact mul_le_mul htap hsample (abs_nonneg _) hA

/-- The bound of one product of a tap and a sample. -/
theorem two_pow_tap_mul_sample (hp : p.Legal) : (2 : Int) ^ (p.wc - 1) * 2 ^ (p.wx - 1) = 2 ^ (p.wc + p.wx - 2) := by
  obtain ⟨-, -, -, hwc, -, hwx, -⟩ := hp
  rw [← pow_add]
  congr 1
  omega

theorem abs_convZ_le_of_inRange (hp : p.Legal) (hh : ∀ c ∈ h, InRangeS c p.wc) (hx : ∀ v ∈ x, InRangeS v p.wx)
    (i : Int) : |convZ h x i| ≤ h.length * 2 ^ (p.wc + p.wx - 2) := by
  rw [← two_pow_tap_mul_sample hp]
  exact abs_convZ_le (by positivity) (by positivity) (fun c hc => abs_le_of_inRangeS (hh c hc))
    (fun v hv => abs_le_of_inRangeS (hx v hv)) i

theorem abs_mac_le_of_inRange (hp : p.Legal) (k : Nat) {taps hist : List Int} (ht : ∀ c ∈ taps, InRangeS c p.wc)
    (hh : ∀ v ∈ hist, InRangeS v p.wx) : |mac k taps hist| ≤ k * 2 ^ (p.wc + p.wx - 2) := by
  rw [← two_pow_tap_mul_sample hp]
  exact abs_mac_le (by positivity) (by positivity) (fun c hc => abs_le_of_inRangeS (ht c hc))
    (fun v hv => abs_le_of_inRangeS (hh v hv))

/-! ### Widths -/

/-- W_Y has one bit more than n ≤ NMAX products can fill. -/
theorem mul_two_pow_le_wy (hp : p.Legal) {n : Nat} (hn : n ≤ p.nmax) :
    (n : Int) * 2 ^ (p.wc + p.wx - 2) ≤ 2 ^ (p.wy - 1) - 1 := by
  obtain ⟨-, -, -, hwc, -, hwx, -⟩ := hp
  have hwy : (2 : Int) ^ (p.wy - 1) = 2 * (2 ^ clog2 p.nmax * 2 ^ (p.wc + p.wx - 2)) := by
    rw [← pow_add, ← pow_succ']
    congr 1
    unfold Params.wy
    omega
  have hcount : (n : Int) ≤ 2 ^ clog2 p.nmax := by exact_mod_cast hn.trans (le_two_pow_clog2 p.nmax)
  have hsum : (n : Int) * 2 ^ (p.wc + p.wx - 2) ≤ 2 ^ clog2 p.nmax * 2 ^ (p.wc + p.wx - 2) :=
    mul_le_mul_of_nonneg_right hcount (by positivity)
  have hpos : (0 : Int) < 2 ^ clog2 p.nmax * 2 ^ (p.wc + p.wx - 2) := by positivity
  rw [hwy]
  omega

/-- A sum of n ≤ NMAX products is what its response pattern denotes (30_encoding.md R310). -/
theorem sext_signedPattern_of_abs_le (hp : p.Legal) {n : Nat} (hn : n ≤ p.nmax)
    (hy : |y| ≤ n * 2 ^ (p.wc + p.wx - 2)) : sext p.wrsp (signedPattern p.wrsp y) = y := by
  have hfits : InRangeS y p.wy := (inRangeS_of_abs_le (hy.trans (mul_two_pow_le_wy hp hn))).1
  have hport : 32 ≤ p.wrsp := p.thirtyTwo_le_wrsp
  exact sext_signedPattern (by omega) (inRangeS_mono p.wy_le_wrsp hfits)

/-- Settles O51: at most N products of bounded factors, and W_Y is chosen for NMAX of them. -/
theorem outputsFitTheResponsePort : Obligations.OutputsFitTheResponsePort := by
  intro p h x n hp hlen hh hx
  have hbound := abs_convZ_le_of_inRange hp hh hx n
  exact ⟨hbound, mul_two_pow_le_wy hp hlen, p.wy_le_wrsp, sext_signedPattern_of_abs_le hp hlen hbound⟩

/-- The accumulator has a spare bit beside the sum lane's K0 products, which holds one more lane's sum too. -/
theorem abs_lt_two_pow_wacc (hp : p.Legal)
    (hy : |y| ≤ p.k0 * 2 ^ (p.wc + p.wx) + p.k0 * 2 ^ (p.wc + p.wx - 2)) : |y| < 2 ^ (p.wacc - 1) := by
  obtain ⟨-, -, -, hwc, -, hwx, -⟩ := hp
  have hquarter : (2 : Int) ^ (p.wc + p.wx) = 4 * 2 ^ (p.wc + p.wx - 2) := by
    rw [show (4 : Int) = 2 ^ 2 by norm_num, ← pow_add]
    congr 1
    omega
  have hwacc : (2 : Int) ^ (p.wacc - 1) = 8 * (2 ^ clog2 p.k0 * 2 ^ (p.wc + p.wx - 2)) := by
    rw [show (8 : Int) = 2 ^ 3 by norm_num, ← pow_add, ← pow_add]
    congr 1
    unfold Params.wacc
    omega
  have hcount : (p.k0 : Int) ≤ 2 ^ clog2 p.k0 := by exact_mod_cast le_two_pow_clog2 p.k0
  have hsum : (p.k0 : Int) * 2 ^ (p.wc + p.wx - 2) ≤ 2 ^ clog2 p.k0 * 2 ^ (p.wc + p.wx - 2) :=
    mul_le_mul_of_nonneg_right hcount (by positivity)
  have hpos : (0 : Int) < 2 ^ clog2 p.k0 * 2 ^ (p.wc + p.wx - 2) := by positivity
  rw [hquarter] at hy
  rw [hwacc]
  linarith

/-! ### The held registers of a running filter -/

theorem forall_mem_laneOf {l : List Int} {w : Nat} (hl : ∀ v ∈ l, InRangeS v w) (lane L : Nat) :
    ∀ v ∈ laneOf l lane L, InRangeS v w := by
  refine forall_mem_of_elem fun j => ?_
  rw [elem_laneOf]
  split
  · exact inRangeS_elem hl _
  · exact inRangeS_zero w

theorem forall_mem_tapsOf (hi : Inv s) : ∀ c ∈ tapsOf s, InRangeS c s.params.wc :=
  fun c hc => hi.widths.coef c (List.mem_of_mem_take hc)

/-- A convolution of one lane's taps with in-range samples is a sum of K products when the lane has at most K taps. -/
theorem abs_convZ_lane_le (hi : Inv s) (hx : ∀ v ∈ x, InRangeS v s.params.wx) (lane : Nat) {k : Nat}
    (hk : (laneOf (tapsOf s) lane 2).length ≤ k) (i : Int) :
    |convZ (laneOf (tapsOf s) lane 2) (laneOf x lane 2) i| ≤ k * 2 ^ (s.params.wc + s.params.wx - 2) := by
  have hbound := abs_convZ_le_of_inRange hi.legal (forall_mem_laneOf (forall_mem_tapsOf hi) lane 2)
    (forall_mem_laneOf hx lane 2) i
  refine hbound.trans (mul_le_mul_of_nonneg_right ?_ (by positivity))
  exact_mod_cast hk

theorem Streams.abs_align_le (hs : Streams s x) (hi : Inv s) :
    |s.align| ≤ s.params.k1 * 2 ^ (s.params.wc + s.params.wx - 2) := by
  have hlen : (laneOf (tapsOf s) 1 2).length ≤ s.params.k1 := by
    have hntaps := hi.ntaps_le
    rw [length_laneOf, length_tapsOf hi, laneLength_one_two, Params.k1]
    omega
  rw [hs.laneState.align]
  exact abs_convZ_lane_le hi hs.inRange 1 hlen _

theorem Streams.abs_a0hold_le (hs : Streams s x) (hi : Inv s) :
    |s.a0hold| ≤ s.params.k0 * 2 ^ (s.params.wc + s.params.wx - 2) := by
  have hlen : (laneOf (tapsOf s) 0 2).length ≤ s.params.k0 := by
    have hntaps := hi.ntaps_le
    rw [length_laneOf, length_tapsOf hi, laneLength_zero_two, Params.k0]
    omega
  rw [hs.laneState.a0hold]
  exact abs_convZ_lane_le hi hs.inRange 0 hlen _

/-! ### The MAC units -/

theorem abs_mac0_shiftIn_le (hi : Inv s) (hv : InRangeS v s.params.wx) :
    |mac0 s (shiftIn v s.xh0)| ≤ s.params.k0 * 2 ^ (s.params.wc + s.params.wx - 2) :=
  abs_mac_le_of_inRange hi.legal _ hi.widths.h0 (forall_mem_shiftIn hv hi.widths.xh0)

theorem abs_mac1_shiftIn_le (hi : Inv s) (hv : InRangeS v s.params.wx) :
    |mac1 s (shiftIn v s.xh1)| ≤ s.params.k1 * 2 ^ (s.params.wc + s.params.wx - 2) :=
  abs_mac_le_of_inRange hi.legal _ hi.widths.h1 (forall_mem_shiftIn hv hi.widths.xh1)

/-- Both pre-adders give one bit more than their operands have, which the exponent here counts. -/
theorem abs_macs_shiftIn_le (hi : Inv s) (hv : InRangeS v s.params.wx) :
    |macs s (shiftIn (preAdd s v) s.xhs)| ≤ s.params.k0 * 2 ^ (s.params.wc + s.params.wx) := by
  have hhist := forall_mem_shiftIn (hi.widths.preAdd hi.legal hv) hi.widths.xhs
  rw [pow_add]
  exact abs_mac_le (by positivity) (by positivity) (fun c hc => abs_le_of_inRangeS (hi.widths.hs c hc))
    (fun y hy => abs_le_of_inRangeS (hhist y hy))

/-- Settles O50: the two held registers are lane convolutions of the stream, which is what leaves the combination adder its
spare bit. -/
theorem datapathNeverOverflows : Obligations.DatapathNeverOverflows := by
  intro s x v hi hs hv
  have hl := hi.legal
  have hk := s.params.k0_add_k1
  have ha0 := hs.abs_a0hold_le hi
  have halign := hs.abs_align_le hi
  have hm0 := abs_mac0_shiftIn_le hi hv
  have hms := abs_macs_shiftIn_le hi hv
  have hlanes : (s.params.k1 : Int) * 2 ^ (s.params.wc + s.params.wx - 2) ≤
      s.params.k0 * 2 ^ (s.params.wc + s.params.wx) := by
    refine mul_le_mul ?_ (pow_le_pow_right₀ one_le_two (Nat.sub_le _ _)) (by positivity) (by positivity)
    exact_mod_cast s.params.k1_le_k0
  refine ⟨abs_le_of_inRangeS (hi.widths.preAdd hl hv), fun c hc => abs_le_of_inRangeS (hi.widths.hs c hc), hm0,
    abs_mac1_shiftIn_le hi hv, hms, abs_lt_two_pow_wacc hl ?_, abs_lt_two_pow_wacc hl ?_,
    sext_signedPattern_of_abs_le hl (by omega) halign, sext_signedPattern_of_abs_le hl (by omega) ha0⟩
  · exact (abs_sub _ _).trans (add_le_add hms ha0)
  · linarith [abs_add_le (mac0 s (shiftIn v s.xh0)) s.align]

end Sys2Proof.Machine
end

section
/-! The start of a stream (42_ffa_datapath.md R509): START and INIT begin an empty stream, and its first sample meets the
first tap only. -/

namespace Sys2Proof.Machine

open Sys2Proof

variable {i : Instr} {s t u : State} {x : List Int}

theorem window_nil_neg_one (K : Nat) : window K [] (-1) = List.replicate K 0 := by
  simp [window, List.map_const']

/-- R700, R603: a cleared filter state in RUN is that of a stream without a sample. -/
theorem streams_nil_of_clearFs (s : State) : Streams { s.clearFs with mode := .run } [] :=
  streams_iff.mpr ⟨rfl, List.forall_mem_nil _, rfl, rfl, (window_nil_neg_one _).symm, (window_nil_neg_one _).symm,
    (window_nil_neg_one _).symm, (convZ_of_neg _ _ (by decide)).symm, (convZ_of_neg _ _ (by decide)).symm⟩

theorem Effect.begins_stream (h : Effect s i u) (hi : i ∈ [Instr.start, .init]) :
    Streams u [] ∧ u.blkRemain = 0 ∧ u.coef = s.coef := by
  cases h
  case start => exact ⟨streams_nil_of_clearFs s.deriveLaneSet, rfl, rfl⟩
  case init hm _ => exact ⟨streams_congr (streams_nil_of_clearFs s) rfl hm rfl rfl rfl rfl rfl rfl rfl rfl, rfl, rfl⟩
  all_goals simp at hi

/-- What succeeds has taken its effect. -/
theorem Succeeds.effect {d : Nat} (h : Succeeds i s d t) :
    ∃ u, Effect s i u ∧ { t with rsp := none } = { u with rsp := none } := by
  obtain ⟨e, -, heq⟩ | ⟨u, d', he, -, heq⟩ := exec_completes h
  · have hcode := congrArg (fun a => a.rsp.map Response.err) heq
    exact absurd (Option.some.inj hcode).symm e.code_ne_zero
  · exact ⟨u, he, congrArg (fun a : State => { a with rsp := none }) heq⟩

theorem succeeds_block {m : Nat} (hr : s.mode = .run) (hclosed : s.blkRemain = 0) (hm : m ≠ 0) :
    Succeeds (.block m) s 0 { s with blkRemain := BitVec.ofNat 32 m } := by
  rw [Succeeds, exec_block, if_neg (not_not.mpr hr), if_neg (not_not.mpr hclosed), if_neg hm]

/-- The sample counts of R701 fit `blk_remain`. -/
theorem toNat_count {m : Nat} (hlt : m < 2 ^ 32) : (BitVec.ofNat 32 m : Count).toNat = m := by
  rw [BitVec.toNat_ofNat, Nat.mod_eq_of_lt hlt]

theorem count_ne_zero {m : Nat} (hm : m ≠ 0) (hlt : m < 2 ^ 32) : (BitVec.ofNat 32 m : Count) ≠ 0 := fun h0 =>
  hm ((toNat_count hlt).symm.trans (congrArg BitVec.toNat h0))

/-- A stream does not see how many samples its call still expects. -/
theorem Streams.with_blkRemain (h : Streams s x) (b : Count) : Streams { s with blkRemain := b } x :=
  streams_congr h rfl rfl rfl rfl rfl rfl rfl rfl rfl rfl

theorem convZ_singleton (h : List Int) (v : Int) : convZ h [v] 0 = elem h 0 * v := by
  have hlater : ∀ k, 1 ≤ k → k < h.length + 1 → elem h k * elemZ [v] (0 - k) = 0 := fun k hk _ => by
    rw [elemZ_of_neg _ _ (by omega), mul_zero]
  rw [convZ_eq_sumTo_of_le h [v] (Nat.le_succ _), sumTo_of_zero_beyond (Nat.le_add_left 1 _) hlater]
  simp [elemZ]

theorem elem_tapsOf_zero (hi : Inv s) (hr : s.mode = .run) : elem (tapsOf s) 0 = elem s.coef 0 := by
  have htaps : 0 < s.ntaps := (hi.run hr).taps
  rw [elem_tapsOf, if_pos htaps]

/-- Lane 0 has no history yet, and `align` holds no A1. -/
theorem Streams.push_first (hs : Streams s []) (hi : Inv s) (hopen : s.blkRemain ≠ 0) {v : Int}
    (hv : InRangeS v s.params.wx) : ∃ w, exec (.push v) s = .next w ∧ w.a0hold = elem s.coef 0 * v ∧
      w.rsp = some { err := 0, data := signedPattern s.params.wrsp (elem s.coef 0 * v) } := by
  have hphase : s.phase = .lane0 := s.phase.eq_lane0_or_lane1.resolve_right fun hp => by
    obtain ⟨n, hn⟩ := hs.length_of_lane1 hp
    cases hn
  have hout : laneOutput s v = elem s.coef 0 * v :=
    (hs.laneOutput_eq hi v).trans ((convZ_singleton _ v).trans (by rw [elem_tapsOf_zero hi hs.run]))
  have ha0 : mac0 s (shiftIn v s.xh0) = elem s.coef 0 * v :=
    (hs.laneState.mac0_shiftIn hi hs.run v).trans ((convZ_singleton _ v).trans (by
      rw [elem_laneOf_zero, mul_zero, elem_tapsOf_zero hi hs.run]))
  refine ⟨_, succeeds_push hs.run hopen hv, ?_, by rw [hout]⟩
  rw [State.advance_a0hold, State.laneStep_lane0 s v hphase, State.step0_a0hold, ha0]

/-- Settles O49: START and INIT leave an empty stream, BLOCK opens a call in it, and `push_first` answers. -/
theorem coldStartAnswersFirstTap : Obligations.ColdStartAnswersFirstTap := by
  intro i s u d m v hi hmem hsucc hpos hlt hv
  obtain ⟨e, he, heq⟩ := hsucc.effect
  obtain ⟨hstream, hclosed, hcoef⟩ := he.begins_stream hmem
  have hu : Streams { u with rsp := none } [] := heq ▸ hstream.with_rsp none
  have hinv : Inv { u with rsp := none } := heq ▸ (hi.effect he).rsp_none
  have hclosed' : u.blkRemain = 0 := (congrArg State.blkRemain heq).trans hclosed
  have hcoef' : u.coef = s.coef := (congrArg State.coef heq).trans hcoef
  have hparams : u.params = s.params := (congrArg State.params heq).trans he.params_eq
  have hopened : Inv { u with blkRemain := BitVec.ofNat 32 m, rsp := some { err := 0, data := 0 } } :=
    (hinv.block hu.run _).respond (by positivity)
  obtain ⟨w, hpush, ha0, hrsp⟩ :=
    ((hu.with_blkRemain _).with_rsp _).push_first hopened (count_ne_zero (by omega) hlt) (hparams ▸ hv)
  rw [← hcoef', ← hparams]
  exact ⟨hu.laneState.align.trans (convZ_of_neg _ _ (by decide)), _, w,
    succeeds_block hu.run hclosed' (by omega), hpush, ha0, hrsp⟩

end Sys2Proof.Machine
end

section
/-! The filter from reset, call by call, at transaction level (44_cmd_stream.md R703; 42_ffa_datapath.md R512). -/

namespace Sys2Proof.Machine

open Sys2Proof

variable {p : Params} {s t u : State} {h x xs ys : List Int} {v : Int} {i : Instr} {is js : List Instr}
  {rs qs : List Response}

/-! ### Runs of commands -/

theorem exists_of_serveAll_cons {w : Word} {ws : List Word} (h : serveAll (w :: ws) s = some (u, qs)) :
    ∃ t r rs, serve w s = some (t, r) ∧ serveAll ws t = some (u, rs) ∧ qs = r :: rs := by
  rw [serveAll] at h
  split at h
  case h_1 => cases h
  case h_2 t r hserve =>
    obtain ⟨⟨u', rs⟩, hrest, hpair⟩ := Option.map_eq_some_iff.mp h
    obtain ⟨rfl, rfl⟩ := Prod.mk.inj hpair
    exact ⟨t, r, rs, hserve, hrest, rfl⟩

theorem serveAll_append {ws ws' : List Word} (hfirst : serveAll ws s = some (t, rs))
    (hrest : serveAll ws' t = some (u, qs)) : serveAll (ws ++ ws') s = some (u, rs ++ qs) := by
  induction ws generalizing s rs with
  | nil =>
    obtain ⟨rfl, rfl⟩ := Prod.mk.inj (Option.some.inj hfirst)
    exact hrest
  | cons w ws ih =>
    obtain ⟨_, _, _, hserve, htail, rfl⟩ := exists_of_serveAll_cons hfirst
    exact serveAll_cons hserve (ih htail)

theorem length_of_serveAll {ws : List Word} (h : serveAll ws s = some (t, rs)) : rs.length = ws.length := by
  induction ws generalizing s rs with
  | nil =>
    obtain ⟨-, rfl⟩ := Prod.mk.inj (Option.some.inj h)
    rfl
  | cons w ws ih =>
    obtain ⟨_, _, _, -, htail, rfl⟩ := exists_of_serveAll_cons h
    exact congrArg Nat.succ (ih htail)

/-- The invariants hold after every run of commands. -/
theorem Inv.serveAll {ws : List Word} (hi : Inv s) (h : serveAll ws s = some (t, rs)) : Inv t := by
  induction ws generalizing s rs with
  | nil =>
    obtain ⟨rfl, -⟩ := Prod.mk.inj (Option.some.inj h)
    exact hi
  | cons w ws ih =>
    obtain ⟨_, _, _, hserve, htail, -⟩ := exists_of_serveAll_cons h
    obtain ⟨_, hexec, -, rfl⟩ := exists_execWord_of_serve hserve
    exact ih (hi.execWord hexec).rsp_none htail

/-- The run of one command that succeeds. -/
theorem serveAll_singleton {d : Nat} (hwf : i.wf = true) (h : Succeeds i s d t) (hrsp : t.rsp = none) :
    serveAll ([i].map encode) s = some (t, [{ err := 0, data := d }]) :=
  serveAll_cons (serve_encode hwf h hrsp) rfl

theorem pushResponses_cons (i : Instr) (r : Response) (is : List Instr) (rs : List Response) :
    pushResponses (i :: is) (r :: rs) = pushResponses [i] [r] ++ pushResponses is rs := by
  cases i <;> rfl

theorem pushResponses_append (hlen : rs.length = is.length) (js : List Instr) (qs : List Response) :
    pushResponses (is ++ js) (rs ++ qs) = pushResponses is rs ++ pushResponses js qs := by
  induction is generalizing rs with
  | nil => rw [List.length_eq_zero_iff.mp hlen]; rfl
  | cons i is ih =>
    obtain ⟨r, rs, rfl⟩ := List.exists_cons_of_length_eq_add_one hlen
    rw [List.cons_append, List.cons_append, pushResponses_cons, ih (Nat.succ.inj hlen), pushResponses_cons i r is rs,
      List.append_assoc]

theorem pushResponses_eq_nil (h : ∀ v, .push v ∉ is) (rs : List Response) : pushResponses is rs = [] := by
  induction is generalizing rs with
  | nil => rfl
  | cons i is ih =>
    cases rs with
    | nil => cases i <;> rfl
    | cons r rs =>
      rw [pushResponses_cons, ih fun v hv => h v (List.mem_cons_of_mem i hv)]
      cases i
      case push v => exact absurd List.mem_cons_self (h v)
      all_goals rfl

/-! ### Commands of a running filter -/

/-- Between commands, in RUN: the filter with parameters p and taps h has processed x. -/
structure Running (p : Params) (h x : List Int) (s : State) : Prop where
  params : s.params = p
  inv : Inv s
  streams : Streams s x
  taps : tapsOf s = h
  idle : s.rsp = none

/-- The response that carries the output y (30_encoding.md R310). -/
def outputResponse (p : Params) (y : Int) : Response := { err := 0, data := signedPattern p.wrsp y }

/-- Served from s, the commands `is` succeed and take the filter from x to x ++ xs; the responses to the PUSHes among them
are what the output grows by. -/
structure Filters (p : Params) (h x : List Int) (is : List Instr) (xs : List Int) (s t : State) (rs : List Response) :
    Prop where
  served : serveAll (is.map encode) s = some (t, rs)
  ok : ∀ r ∈ rs, r.err = 0
  outputs : (conv h (x ++ xs)).map (outputResponse p) = (conv h x).map (outputResponse p) ++ pushResponses is rs
  running : Running p h (x ++ xs) t

theorem Running.filters_nil (hs : Running p h x s) : Filters p h x [] [] s s [] := by
  refine ⟨rfl, List.forall_mem_nil _, ?_, ?_⟩ <;> simp only [List.append_nil, pushResponses]
  exact hs

/-- R512: what follows sees the samples so far, and not in how many commands they came. -/
theorem Filters.append (hfirst : Filters p h x is xs s t rs) (hrest : Filters p h (x ++ xs) js ys t u qs) :
    Filters p h x (is ++ js) (xs ++ ys) s u (rs ++ qs) where
  served := List.map_append ▸ serveAll_append hfirst.served hrest.served
  ok := List.forall_mem_append.mpr ⟨hfirst.ok, hrest.ok⟩
  outputs := by
    have hlen : rs.length = is.length := by simpa using length_of_serveAll hfirst.served
    rw [← List.append_assoc, hrest.outputs, hfirst.outputs, pushResponses_append hlen, List.append_assoc]
  running := List.append_assoc x xs ys ▸ hrest.running

theorem wf_push_of_inRangeS (hp : p.Legal) (hv : InRangeS v p.wx) : (Instr.push v).wf = true := by
  obtain ⟨-, -, -, -, -, -, hwx⟩ := hp
  obtain ⟨hlow, hhigh⟩ := inRangeS_mono hwx hv
  exact decide_eq_true ⟨by simpa using hlow, by simpa using hhigh⟩

theorem Running.push (hs : Running p h x s) (hopen : s.blkRemain ≠ 0) (hv : InRangeS v p.wx) :
    ∃ t rs, Filters p h x [.push v] [v] s t rs ∧ t.blkRemain = s.blkRemain - 1 := by
  obtain ⟨rfl, hi, hstream, rfl, hidle⟩ := hs
  have hsucc := succeeds_push hstream.run hopen hv
  have hrsp : (s.laneStep v).advance.rsp = none := by simpa using hidle
  refine ⟨_, _, ⟨serveAll_singleton (wf_push_of_inRangeS hi.legal hv) hsucc hrsp, ?_, ?_, ?_⟩, by simp⟩
  · simp
  · rw [conv_append_singleton, List.map_append, hstream.laneOutput_eq hi]
    rfl
  · exact ⟨by simp, hi.effect (.push hstream.run hopen hv), hstream.push hi hv, tapsOf_laneStep_advance s v, hrsp⟩

/-- Induction on the samples; `blk_remain` counts those to come. -/
theorem Running.pushes (hs : Running p h x s) (hcount : s.blkRemain.toNat = xs.length)
    (hrange : ∀ v ∈ xs, InRangeS v p.wx) :
    ∃ t rs, Filters p h x (xs.map .push) xs s t rs ∧ t.blkRemain = 0 := by
  induction xs generalizing s x with
  | nil => exact ⟨s, [], hs.filters_nil, BitVec.eq_of_toNat_eq hcount⟩
  | cons v xs ih =>
    obtain ⟨hv, hxs⟩ := List.forall_mem_cons.mp hrange
    rw [List.length_cons] at hcount
    obtain ⟨t, rs, hpush, hdown⟩ := hs.push (by bv_omega) hv
    obtain ⟨u, qs, hrest, hclosed⟩ := ih hpush.running (by bv_omega) hxs
    exact ⟨u, rs ++ qs, hpush.append hrest, hclosed⟩

theorem Running.block (hs : Running p h x s) (hclosed : s.blkRemain = 0) {m : Nat} (hm : m ≠ 0) (hlt : m < 2 ^ 32) :
    ∃ t rs, Filters p h x [.block m] [] s t rs ∧ t.blkRemain.toNat = m := by
  obtain ⟨rfl, hi, hstream, rfl, hidle⟩ := hs
  have hwf : (Instr.block m).wf = true := decide_eq_true (Nat.le_of_lt_succ hlt)
  refine ⟨_, _, ⟨serveAll_singleton hwf (succeeds_block hstream.run hclosed hm) hidle, by simp, ?_, ?_⟩, toNat_count hlt⟩
  · simp [pushResponses]
  · rw [List.append_nil]
    exact ⟨rfl, hi.block hstream.run _, hstream.with_blkRemain _, rfl, hidle⟩

/-- One call (R703). -/
theorem Running.call (hs : Running p h x s) (hclosed : s.blkRemain = 0) (hne : xs ≠ []) (hlt : xs.length < 2 ^ 32)
    (hrange : ∀ v ∈ xs, InRangeS v p.wx) :
    ∃ t rs, Filters p h x (filter xs) xs s t rs ∧ t.blkRemain = 0 := by
  obtain ⟨t, rs, hblock, hcount⟩ := hs.block hclosed (mt List.length_eq_zero_iff.mp hne) hlt
  obtain ⟨u, qs, hpushes, hclosed'⟩ := hblock.running.pushes (by simpa using hcount) hrange
  exact ⟨u, rs ++ qs, hblock.append hpushes, hclosed'⟩

theorem Running.calls (hs : Running p h x s) (hclosed : s.blkRemain = 0) (calls : List (List Int))
    (hcalls : ∀ xs ∈ calls, xs ≠ [] ∧ xs.length < 2 ^ 32 ∧ ∀ v ∈ xs, InRangeS v p.wx) :
    ∃ t rs, Filters p h x (calls.flatMap filter) calls.flatten s t rs ∧ t.blkRemain = 0 := by
  induction calls generalizing s x with
  | nil => exact ⟨s, [], hs.filters_nil, hclosed⟩
  | cons xs calls ih =>
    obtain ⟨⟨hne, hlt, hrange⟩, hrest⟩ := List.forall_mem_cons.mp hcalls
    obtain ⟨t, rs, hcall, hclosed'⟩ := hs.call hclosed hne hlt hrange
    obtain ⟨u, qs, hmore, hend⟩ := ih hcall.running hclosed' hrest
    exact ⟨u, rs ++ qs, hcall.append hmore, hend⟩

/-! ### SETUP from reset -/

theorem succeeds_setl (hm : s.mode = .config) : Succeeds (.setl 2) s 0 s := by
  rw [Succeeds, exec_setl, if_neg (not_not.mpr hm), if_neg (not_not.mpr rfl)]

theorem succeeds_start (hm : s.mode = .config) (htaps : s.ntaps ≠ 0) (hloaded : s.cptr = s.ntaps) :
    Succeeds .start s 0 { s.deriveLaneSet.clearFs with mode := .run } := by
  rw [Succeeds, exec_start, if_neg (not_not.mpr hm), if_neg (by simp [htaps, hloaded])]

/-- SETUP leaves the taps loaded and no sample processed (30_encoding.md R313). -/
theorem exists_serveAll_setup (hp : p.Legal) (hne : h ≠ []) (hlen : h.length ≤ p.nmax)
    (hrange : ∀ c ∈ h, InRangeS c p.wc) :
    ∃ t rs, serveAll ((setup h).map encode) (State.atReset p) = some (t, rs) ∧ (∀ r ∈ rs, r.err = 0) ∧
      Running p h [] t ∧ t.blkRemain = 0 := by
  have hi : Inv (State.atReset p) := everyElaborationStartsInInvariants p hp
  have hloadh := loadhLoadsTheTaps (State.atReset p) h hi rfl rfl hne hlen hrange
  have hloaded := hi.serveAll hloadh
  have hntaps : h.length ≠ 0 := mt List.length_eq_zero_iff.mp hne
  have hstart := serveAll_singleton rfl (succeeds_start (s := { State.atReset p with
    ntaps := h.length, cptr := h.length, coef := h ++ List.replicate (p.nmax - h.length) 0 }) rfl hntaps rfl) rfl
  have hsetup := serveAll_append (serveAll_singleton rfl (succeeds_setl (s := State.atReset p) rfl) rfl)
    (serveAll_append hloadh hstart)
  rw [← List.map_append, ← List.map_append] at hsetup
  refine ⟨_, _, hsetup, ?_, ⟨rfl, hloaded.start hntaps rfl, streams_nil_of_clearFs _, ?_, rfl⟩, rfl⟩
  · simp [List.mem_replicate]
  · exact List.take_left

theorem push_notMem_setup (h : List Int) (v : Int) : Instr.push v ∉ setup h := by simp [setup, loadh]

/-- Settles O52: SETUP starts an empty stream, every call appends its samples to it, and the output of the stream from
reset is the reference FIR. -/
theorem filterCallsEqualReferenceFir : Obligations.FilterCallsEqualReferenceFir := by
  intro p h calls ys hp hlen hh hcalls hys
  obtain ⟨hne, -, rfl⟩ := refFir_eq_some h _ hys
  obtain ⟨s, rs, hsetup, hok, hrunning, hclosed⟩ := exists_serveAll_setup hp hne hlen hh
  obtain ⟨t, qs, hfilters, hend⟩ := hrunning.calls hclosed calls hcalls
  have hsetupLen : rs.length = (setup h).length := by simpa using length_of_serveAll hsetup
  refine ⟨t, rs ++ qs, ?_, List.forall_mem_append.mpr ⟨hok, hfilters.ok⟩, hend, ?_⟩
  · rw [List.map_append]
    exact serveAll_append hsetup hfilters.served
  · rw [pushResponses_append hsetupLen, pushResponses_eq_nil (push_notMem_setup h)]
    exact hfilters.outputs.symm

end Sys2Proof.Machine
end

section
/-! The configuration commands, one by one (43_cmd_config.md R600 to R604): what each leaves when its checks pass, the error
each failing check raises, and its word. -/

namespace Sys2Proof.Machine

open Sys2Proof

variable {i : Instr} {s t : State} {e : Err}

/-! ### Errors and the check order (60_exceptions.md R1000, R1002) -/

theorem raises_iff : Raises i s e ↔ exec i s = .next (s.raised e) := Iff.rfl

theorem guarded_notIn_of_ne {m : Mode} (hm : s.mode ≠ m) (checks : List (Bool × Err)) (effect : Result) :
    guarded (notIn m s :: checks) s effect = .next (s.raised .mode) :=
  (guarded_cons (s.mode ≠ m) .mode checks s effect).trans (if_pos hm)

/-- The mode check comes first in every command that has one, so no other error hides it. -/
theorem raises_mode_of_applies (h : Applies .mode i s) : Raises i s .mode := by
  cases i with
  | setn | ldc | setl | start => exact guarded_notIn_of_ne (Mode.ne_config_iff.mpr h) _ _
  | stop | init | block | push => exact guarded_notIn_of_ne (Mode.ne_run_iff.mpr h) _ _
  | nop | read | rdc | clrerr => exact h.elim

theorem raises_setn_arg {n : Nat} (hm : s.mode = .config) (hn : n = 0 ∨ s.params.nmax < n) :
    Raises (.setn n) s .arg := by
  rw [raises_iff, exec_setn, if_neg (not_not.mpr hm), if_pos (hn.imp_left Nat.lt_one_iff.mpr)]

theorem raises_ldc_coefFull (c : Int) (hm : s.mode = .config) (hfull : s.cptr = s.ntaps) :
    Raises (.ldc c) s .coefFull := by
  rw [raises_iff, exec_ldc, if_neg (not_not.mpr hm), if_pos hfull]

theorem raises_ldc_arg {c : Int} (hm : s.mode = .config) (hspace : s.cptr ≠ s.ntaps)
    (hc : ¬ InRangeS c s.params.wc) : Raises (.ldc c) s .arg := by
  rw [raises_iff, exec_ldc, if_neg (not_not.mpr hm), if_neg hspace, if_pos hc]

theorem raises_setl_laneCount {l : Nat} (hm : s.mode = .config) (hl : l ≠ 2) : Raises (.setl l) s .laneCount := by
  rw [raises_iff, exec_setl, if_neg (not_not.mpr hm), if_pos hl]

theorem raises_start_coefIncomplete (hm : s.mode = .config) (hload : s.ntaps = 0 ∨ s.cptr ≠ s.ntaps) :
    Raises .start s .coefIncomplete := by
  rw [raises_iff, exec_start, if_neg (not_not.mpr hm), if_pos hload]

theorem raises_stop_busy (hm : s.mode = .run) (hopen : s.blkRemain ≠ 0) : Raises .stop s .busy := by
  rw [raises_iff, exec_stop, if_neg (not_not.mpr hm), if_pos hopen]

/-- R308: an operand field that is not 0 makes the word of a command without an operand no command. -/
theorem execWord_of_nonzeroArg {w : Word} (s : State) (hop : (opOf w).toNat ∈ [0, 4, 5, 6, 11]) (harg : argOf w ≠ 0) :
    execWord w s = .next (s.raised .illegal) :=
  (wordIsCommandOrRaisesIllegal w s).1 (.inr (.inr ⟨hop, harg⟩))

/-! ### Effects -/

theorem succeeds_stop (hm : s.mode = .run) (hclosed : s.blkRemain = 0) :
    Succeeds .stop s 0 { s.clearFs with mode := .config } := by
  rw [Succeeds, exec_stop, if_neg (not_not.mpr hm), if_neg (not_not.mpr hclosed)]

/-- There is one state a command that succeeds can leave. -/
theorem Succeeds.eq_of_exec {d : Nat} {u : State} (h : Succeeds i s d u) (ht : exec i s = .next t) :
    t = { u with rsp := some { err := 0, data := d } } :=
  (Host.Outcome.next.inj (h.symm.trans ht)).symm

/-- 10_state.md R117: once a SETN has set a tap count, CFG_DONE compares the two counters. -/
theorem cfgDone_of_ntaps_pos (h : 1 ≤ s.ntaps) : cfgDone s = decide (s.cptr = s.ntaps) := by
  simp only [cfgDone, h, true_and]

/-! ### The statements -/

/-- Settles O45: START succeeds, the cleared filter state in RUN is that of the empty stream, and the taps are not written. -/
theorem startBeginsEmptyStream : Obligations.StartBeginsEmptyStream := by
  intro s hi hm htaps hloaded
  have hstart := succeeds_start hm htaps hloaded
  exact ⟨_, hstart, (streams_nil_of_clearFs s.deriveLaneSet).with_rsp _, rfl, hi.exec hstart⟩

/-- Settles O29: no tap is loaded right after SETN, and at least one is expected. -/
theorem setnSetsTapCountAndClearsCoef : Obligations.SetnSetsTapCountAndClearsCoef := by
  refine ⟨?effect, fun _ _ hm => raises_mode_of_applies hm, fun _ _ hm hn => raises_setn_arg hm hn, fun _ _ => rfl⟩
  case effect =>
    intro n s hm hpos hle
    have hsetn := succeeds_setn hm hpos hle
    refine ⟨hsetn, fun t ht => ?_⟩
    obtain rfl := hsetn.eq_of_exec ht
    refine ⟨?_, List.length_replicate, elem_replicate_zero _⟩
    rw [cfgDone_of_ntaps_pos hpos]
    exact decide_eq_false (Nat.ne_of_lt hpos)

/-- Settles O30: the register at `cptr` is written if the file has one there, and `cptr` is one step nearer to `ntaps`. -/
theorem ldcLoadsNextTap : Obligations.LdcLoadsNextTap := by
  refine ⟨?effect, fun _ _ hm => raises_mode_of_applies hm, fun c _ hm hfull => raises_ldc_coefFull c hm hfull,
    fun _ _ hm hspace hc => raises_ldc_arg hm hspace hc, fun _ => rfl⟩
  case effect =>
    intro c s hm hspace hc
    have hldc := succeeds_ldc hm hspace hc
    refine ⟨hldc, fun hcptr t ht => ?_⟩
    obtain rfl := hldc.eq_of_exec ht
    refine ⟨fun k => ?_, fun hpos => cfgDone_of_ntaps_pos hpos⟩
    simp only [elem_set, hcptr, and_true]

/-- Settles O31: the accepted lane count leaves the state as it is, and the second check raises on every other. -/
theorem setlAcceptsOnlyTwo : Obligations.SetlAcceptsOnlyTwo :=
  ⟨fun _ hm => succeeds_setl hm, fun _ _ hm => raises_mode_of_applies hm, fun _ _ hm hl => raises_setl_laneCount hm hl,
    fun _ _ => rfl⟩

/-- Settles O32: the LaneSet is R107's three tap lists, whose elements the laws of `lane0Taps`, `lane1Taps` and `sumTaps`
give. -/
theorem startDerivesLaneSetAndEntersRun : Obligations.StartDerivesLaneSetAndEntersRun := by
  refine ⟨?effect, fun _ hm => raises_mode_of_applies hm, fun _ hm hload => raises_start_coefIncomplete hm hload,
    fun s _ _ hop harg => execWord_of_nonzeroArg s (by rw [hop]; decide) harg, rfl⟩
  case effect =>
    intro s hm htaps hloaded
    refine ⟨lane0Taps s.params s.ntaps s.coef, lane1Taps s.params s.ntaps s.coef, _,
      succeeds_start hm htaps hloaded, length_lane0Taps _ _ _, length_lane1Taps _ _ _, length_sumTaps _ _ _, ?_, ?_, ?_⟩
    · exact fun j hj => (elem_lane0Taps _ _ _ j).trans (if_pos hj)
    · exact fun j hj => (elem_lane1Taps _ _ _ j).trans (if_pos hj)
    · exact fun j hj => (elem_sumTaps _ _ _ j).trans (if_pos hj)

/-- Settles O33: STOP writes the filter state and the mode only, and its two checks raise in this order. -/
theorem stopReturnsToConfig : Obligations.StopReturnsToConfig :=
  ⟨fun _ hm hclosed => succeeds_stop hm hclosed, fun _ hm => raises_mode_of_applies hm,
    fun _ hm hopen => raises_stop_busy hm hopen,
    fun s _ _ hop harg => execWord_of_nonzeroArg s (by rw [hop]; decide) harg, rfl⟩

end Sys2Proof.Machine
end

section
/-! The streaming commands, one by one (44_cmd_stream.md R700 to R703): what each leaves when its checks pass, the error each
failing check raises, its word, and which commands leave the stream as it is. -/

namespace Sys2Proof.Machine

open Sys2Proof

variable {i : Instr} {s t u : State} {x : List Int}

/-! ### Errors (60_exceptions.md R1001, R1002) -/

theorem guarded_notIn_of_eq {m : Mode} (hm : s.mode = m) (checks : List (Bool × Err)) (effect : Result) :
    guarded (notIn m s :: checks) s effect = guarded checks s effect :=
  (guarded_cons (s.mode ≠ m) .mode checks s effect).trans (if_neg (not_not.mpr hm))

/-- In RUN the check for an open block is the next one of every command that has it. -/
theorem raises_busy_of_applies (hm : s.mode = .run) (h : Applies .busy i s) : Raises i s .busy := by
  cases i with
  | stop | init | block => exact (guarded_notIn_of_eq hm _ _).trans ((guarded_cons _ .busy _ s _).trans (if_pos h))
  | nop | setn | ldc | setl | start | push | read | rdc | clrerr => exact h.elim

theorem raises_block_emptyInput (hm : s.mode = .run) (hclosed : s.blkRemain = 0) : Raises (.block 0) s .emptyInput := by
  rw [raises_iff, exec_block, if_neg (not_not.mpr hm), if_neg (not_not.mpr hclosed), if_pos rfl]

theorem raises_push_noBlock (v : Int) (hm : s.mode = .run) (hclosed : s.blkRemain = 0) :
    Raises (.push v) s .noBlock := by
  rw [raises_iff, exec_push, if_neg (not_not.mpr hm), if_pos hclosed]

theorem raises_push_arg {v : Int} (hm : s.mode = .run) (hopen : s.blkRemain ≠ 0) (hv : ¬ InRangeS v s.params.wx) :
    Raises (.push v) s .arg := by
  rw [raises_iff, exec_push, if_neg (not_not.mpr hm), if_neg hopen, if_pos hv]

/-! ### Effects -/

theorem succeeds_init (hm : s.mode = .run) (hclosed : s.blkRemain = 0) : Succeeds .init s 0 s.clearFs := by
  rw [Succeeds, exec_init, if_neg (not_not.mpr hm), if_neg (not_not.mpr hclosed)]

/-- R610: every element `clear_fs` writes already holds what it writes there. -/
theorem clearFs_eq_self (hsized : Sized s) (hclear : FilterStateClear s) : s.clearFs = s := by
  have hxh0 : s.xh0 = List.replicate s.params.k0 0 := List.eq_replicate_iff.mpr ⟨hsized.xh0, hclear.xh0⟩
  have hxh1 : s.xh1 = List.replicate s.params.k1 0 := List.eq_replicate_iff.mpr ⟨hsized.xh1, hclear.xh1⟩
  have hxhs : s.xhs = List.replicate s.params.k0 0 := List.eq_replicate_iff.mpr ⟨hsized.xhs, hclear.xhs⟩
  obtain ⟨hphase, hblk, hscount, halign, ha0hold, -, -, -⟩ := hclear
  cases s
  simp only [State.clearFs, State.mk.injEq, true_and, and_true]
  exact ⟨hxh0.symm, hxh1.symm, hxhs.symm, halign.symm, ha0hold.symm, hphase.symm, hblk.symm, hscount.symm⟩

theorem blkActive_of_ne_zero (h : s.blkRemain ≠ 0) : blkActive s = true := decide_eq_true h

/-- `blk_remain` counts down exactly while it is not 0. -/
theorem count_pred_toNat {b : Count} (h : b ≠ 0) : (b - 1).toNat + 1 = b.toNat := by bv_omega

/-! ### The stream -/

/-- R1000: an error response leaves every element a stream depends on. -/
theorem Streams.raised (h : Streams s x) (e : Err) : Streams (s.raised e) x :=
  streams_congr h rfl rfl rfl rfl rfl rfl rfl rfl rfl rfl

theorem Streams.with_lastErr (h : Streams s x) (c : Code) : Streams { s with lastErr := c } x :=
  streams_congr h rfl rfl rfl rfl rfl rfl rfl rfl rfl rfl

/-- The commands that load a filter do not succeed in RUN, and the others write no element a stream depends on. -/
theorem Effect.keeps_stream (h : Effect s i u) (hs : Streams s x)
    (hi : i ≠ .start ∧ i ≠ .stop ∧ i ≠ .init ∧ ∀ v, i ≠ .push v) : Streams u x ∧ tapsOf u = tapsOf s := by
  obtain ⟨hstart, hstop, hinit, hpush⟩ := hi
  cases h with
  | nop | read | rdc => exact ⟨hs, rfl⟩
  | block => exact ⟨hs.with_blkRemain _, rfl⟩
  | clrerr => exact ⟨hs.with_lastErr 0, rfl⟩
  | setn hm | ldc hm | setl hm => exact absurd (hm.symm.trans hs.run) (by decide)
  | start => exact absurd rfl hstart
  | stop => exact absurd rfl hstop
  | init => exact absurd rfl hinit
  | push => exact absurd rfl (hpush _)

/-! ### The statements -/

/-- Settles O46: INIT succeeds, and the cleared filter state of a running filter is that of the empty stream. -/
theorem initBeginsEmptyStream : Obligations.InitBeginsEmptyStream := by
  intro s x hi hs hclosed
  obtain ⟨hstream, -, -⟩ := (Effect.init hs.run hclosed).begins_stream (by simp)
  exact ⟨_, succeeds_init hs.run hclosed, hstream.with_rsp _, rfl⟩

/-- Settles O48: a command that answers has raised an error, or has answered 0 and taken an effect that keeps the stream. -/
theorem otherCommandsKeepTheStream : Obligations.OtherCommandsKeepTheStream := by
  intro i s t x r hs hexec hrsp hcases
  obtain ⟨e, -, rfl⟩ | ⟨u, d, heffect, -, rfl⟩ := exec_completes hexec
  · exact ⟨hs.raised e, rfl⟩
  · obtain rfl := Option.some.inj hrsp
    obtain ⟨hstream, htaps⟩ := heffect.keeps_stream hs (hcases.resolve_left (not_not.mpr rfl))
    exact ⟨hstream.with_rsp _, htaps⟩

/-- Settles O34: INIT writes the filter state only, which a clear filter state does not show, and its checks raise in order. -/
theorem initClearsFilterState : Obligations.InitClearsFilterState := by
  refine ⟨fun _ hm hclosed => succeeds_init hm hclosed, ?clear, fun _ hm => raises_mode_of_applies hm,
    fun _ hm hopen => raises_busy_of_applies hm hopen,
    fun s _ _ hop harg => execWord_of_nonzeroArg s (by rw [hop]; decide) harg, rfl⟩
  case clear =>
    intro s hm hsized hclear
    have hinit := succeeds_init hm hclear.blkRemain
    rwa [clearFs_eq_self hsized hclear] at hinit

/-- Settles O35: the count of a call fits `blk_remain`, so it is there as it was given and is not 0. -/
theorem blockOpensCall : Obligations.BlockOpensCall := by
  refine ⟨?effect, fun _ _ hm => raises_mode_of_applies hm, fun _ _ hm hopen => raises_busy_of_applies hm hopen,
    fun _ hm hclosed => raises_block_emptyInput hm hclosed, fun _ _ => rfl⟩
  case effect =>
    intro m s hm hclosed hpos hlt
    have hm0 : m ≠ 0 := Nat.one_le_iff_ne_zero.mp hpos
    exact ⟨_, succeeds_block hm hclosed hm0, toNat_count hlt, blkActive_of_ne_zero (count_ne_zero hm0 hlt), rfl⟩

/-- Settles O38: whichever lane takes the sample, its step writes none of the elements named here, and `advance` writes the
three that sequence the samples. -/
theorem pushSequencesOneSample : Obligations.PushSequencesOneSample := by
  refine ⟨?effect, fun _ _ hm => raises_mode_of_applies hm, fun v _ hm hclosed => raises_push_noBlock v hm hclosed,
    fun _ _ hm hopen hv => raises_push_arg hm hopen hv, fun _ => rfl⟩
  case effect =>
    intro v s hm hopen hv
    refine ⟨_, _, succeeds_push hm hopen hv, rfl, ?phase, ?blkRemain, ?scount, ?kept⟩
    case phase => rw [State.advance_phase, State.laneStep_phase, Lane.bit_next]
    case blkRemain => rw [State.advance_blkRemain, State.laneStep_blkRemain, count_pred_toNat hopen]
    case scount => rw [State.advance_scount, State.laneStep_scount, BitVec.toNat_add]; rfl
    case kept => simp

end Sys2Proof.Machine
end

section
/-! The readback and housekeeping commands, one by one (45_cmd_readback.md R800 to R803): what each answers, the error each
failing check raises, and its word. -/

namespace Sys2Proof.Machine

open Sys2Proof

variable {s : State}

/-! ### Data on the response port (30_encoding.md R310) -/

/-- The response port has at least 32 bits, so zero extension leaves a value of 32 bits as it is. -/
theorem unsignedData_of_lt {d : Nat} (s : State) (hd : d < 2 ^ 32) : unsignedData s d = d :=
  unsignedPattern_of_lt (hd.trans_le (Nat.pow_le_pow_right two_pos s.params.thirtyTwo_le_wrsp))

theorem signedPattern_zero (w : Nat) : signedPattern w 0 = 0 := by simp [signedPattern]

/-- 10_state.md R117: STATUS has no bit above the eight it names. -/
theorem statusView_lt (s : State) : statusView s < 2 ^ 8 := by
  refine Nat.lt_pow_two_of_testBit _ fun b hb => ?_
  have hfield := statusFields.1 s b
  rwa [if_neg (by omega), if_neg (by omega), if_neg (by omega), if_neg (by omega), if_neg (by omega)] at hfield

/-- 00_scope.md R6, R8: the widest legal output sample. -/
theorem wy_le_of_legal {p : Params} (hp : p.Legal) : p.wy ≤ 80 := by
  obtain ⟨-, -, hnmax, -, hwc, -, hwx⟩ := hp
  have hclog : clog2 p.nmax ≤ 16 := clog2_le hnmax
  unfold Params.wy
  omega

/-- A register of W_C bits fits the response port (00_scope.md R8). -/
theorem wc_le_wrsp_of_legal {p : Params} (hp : p.Legal) : p.wc ≤ p.wrsp := by
  obtain ⟨-, -, -, -, hwc, -, -⟩ := hp
  exact hwc.trans p.thirtyTwo_le_wrsp

/-! ### READ -/

/-- R800: a zero-extended view of at most 32 bits is answered as it is. -/
theorem succeeds_read_unsigned {sel d : Nat} (hview : view s sel = some (unsignedData s d)) (hd : d < 2 ^ 32) :
    Succeeds (.read sel) s d s :=
  exec_read_view (hview.trans (congrArg some (unsignedData_of_lt s hd)))

theorem succeeds_read_align (s : State) : Succeeds (.read 6) s (signedPattern s.params.wrsp s.align) s :=
  exec_read_view rfl

theorem succeeds_read_a0hold (s : State) : Succeeds (.read 7) s (signedPattern s.params.wrsp s.a0hold) s :=
  exec_read_view rfl

theorem raises_read_arg {sel : Nat} (h : 12 < sel) : Raises (.read sel) s .arg :=
  exec_read_none ((view_eq_none_iff s sel).mpr h)

/-! ### RDC -/

theorem succeeds_rdc {k : Nat} (h : k < s.params.nmax) :
    Succeeds (.rdc k) s (signedPattern s.params.wrsp (elem s.coef k)) s :=
  (exec_rdc k s).trans (if_neg (not_le.mpr h))

theorem raises_rdc_arg {k : Nat} (h : s.params.nmax ≤ k) : Raises (.rdc k) s .arg :=
  (exec_rdc k s).trans (if_pos h)

/-- The pattern of a coefficient on the response port loses nothing of it. -/
theorem sext_signedPattern_coef (hi : Inv s) (k : Nat) :
    sext s.params.wrsp (signedPattern s.params.wrsp (elem s.coef k)) = elem s.coef k := by
  have hport : 0 < s.params.wrsp := (by decide : 0 < 32).trans_le s.params.thirtyTwo_le_wrsp
  exact sext_signedPattern hport (inRangeS_mono (wc_le_wrsp_of_legal hi.legal) (inRangeS_elem hi.widths.coef k))

/-! ### The statements -/

/-- Settles O42: NOP has no check to fail, and a word of it with an operand is no command. -/
theorem nopChangesNothing : Obligations.NopChangesNothing :=
  ⟨exec_nop, fun s _ _ hop harg => execWord_of_nonzeroArg s (by rw [hop]; decide) harg, rfl⟩

/-- Settles O43: the 4 bits of `last_err` fit the response port, and a word of CLRERR with an operand is no command. -/
theorem clrerrAnswersAndClears : Obligations.ClrerrAnswersAndClears := by
  refine ⟨fun s => ?effect, fun s _ _ hop harg => execWord_of_nonzeroArg s (by rw [hop]; decide) harg, rfl⟩
  case effect =>
    have hdata : unsignedPattern s.params.wrsp s.lastErr.toNat = s.lastErr.toNat :=
      unsignedData_of_lt s (s.lastErr.isLt.trans (by decide))
    rw [exec_clrerr, hdata]

/-- Settles O41: a register of W_C bits fits the response port, and one beyond the taps holds 0. -/
theorem rdcAnswersCoefficient : Obligations.RdcAnswersCoefficient := by
  refine ⟨fun _ _ hk => succeeds_rdc hk, fun k _ hi => sext_signedPattern_coef hi k, ?beyond,
    fun _ _ hk => raises_rdc_arg hk, fun _ _ => rfl⟩
  case beyond =>
    intro k s hi hbeyond hk
    have hrdc := succeeds_rdc hk
    rwa [hi.coef_beyond k hbeyond, signedPattern_zero] at hrdc

/-- Settles O39: one case per row of R116, the two signed views as their patterns and the others as they are, since each of
them has at most 32 bits. -/
theorem readAnswersViews : Obligations.ReadAnswersViews := by
  refine ⟨?views, ?clear, fun _ _ hsel => raises_read_arg hsel, fun _ _ => rfl⟩
  case views =>
    intro s hp hntaps hcptr sel d hmem
    have hwy := wy_le_of_legal hp
    obtain ⟨-, -, hnmax, -, hwc, -, hwx⟩ := hp
    simp only [List.mem_cons, Prod.mk.injEq, List.not_mem_nil, or_false] at hmem
    obtain ⟨rfl, rfl⟩ | ⟨rfl, rfl⟩ | ⟨rfl, rfl⟩ | ⟨rfl, rfl⟩ | ⟨rfl, rfl⟩ | ⟨rfl, rfl⟩ | ⟨rfl, rfl⟩ | ⟨rfl, rfl⟩ |
      ⟨rfl, rfl⟩ | ⟨rfl, rfl⟩ | ⟨rfl, rfl⟩ | ⟨rfl, rfl⟩ | ⟨rfl, rfl⟩ := hmem
    · exact succeeds_read_unsigned rfl ((statusView_lt s).trans (by decide))
    · exact succeeds_read_unsigned rfl (by omega)
    · exact succeeds_read_unsigned rfl (by decide)
    · exact succeeds_read_unsigned rfl (by omega)
    · exact succeeds_read_unsigned rfl s.blkRemain.isLt
    · exact succeeds_read_unsigned rfl s.scount.isLt
    · exact succeeds_read_align s
    · exact succeeds_read_a0hold s
    · exact succeeds_read_unsigned rfl (by omega)
    · exact succeeds_read_unsigned rfl (by omega)
    · exact succeeds_read_unsigned rfl (by omega)
    · exact succeeds_read_unsigned rfl (by omega)
    · exact succeeds_read_unsigned rfl (by decide)
  case clear =>
    intro s hi hm
    have hread := succeeds_read_align s
    rwa [(hi.config hm).align, signedPattern_zero] at hread

end Sys2Proof.Machine
end

section
/-! Errors (60_exceptions.md R1000 to R1004): which error a command reports, that an error answer changes nothing else, and that
the block goes on after it. -/

namespace Sys2Proof.Machine

open Sys2Proof

variable {i : Instr} {s : State} {e e' : Err}

/-! ### The reported error is the smallest one that applies (R1002) -/

/-- Error e applies to command i, and none with a smaller code does (R1002). -/
def LeastError (e : Err) (i : Instr) (s : State) : Prop := Applies e i s ∧ ∀ e', Applies e' i s → e.code ≤ e'.code

theorem LeastError.not_applies (h : LeastError e i s) (hlt : e'.code < e.code) : ¬ Applies e' i s :=
  fun ha => BitVec.not_le.mpr hlt (h.2 e' ha)

/-- The smallest error is raised: the checks before its own are of smaller codes, so they have passed. -/
theorem raises_of_leastError (h : LeastError e i s) : Raises i s e := by
  have ha : Applies e i s := h.1
  have hmode : Err.mode.code < e.code → ¬ Applies .mode i s := h.not_applies
  cases e with
  | illegal | lengthMismatch => exact ha.elim
  | mode => exact raises_mode_of_applies ha
  | busy =>
    cases i
    case stop | init | block => exact raises_busy_of_applies (Mode.ne_config_iff.mp (hmode (by decide))) ha
    all_goals exact ha.elim
  | noBlock =>
    cases i
    case push v => exact raises_push_noBlock v (Mode.ne_config_iff.mp (hmode (by decide))) ha
    all_goals exact ha.elim
  | coefFull =>
    cases i
    case ldc c => exact raises_ldc_coefFull c (Mode.ne_run_iff.mp (hmode (by decide))) ha
    all_goals exact ha.elim
  | coefIncomplete =>
    cases i
    case start => exact raises_start_coefIncomplete (Mode.ne_run_iff.mp (hmode (by decide))) ha
    all_goals exact ha.elim
  | arg =>
    cases i
    case setn => exact raises_setn_arg (Mode.ne_run_iff.mp (hmode (by decide))) ha
    case ldc =>
      have hspace : s.cptr ≠ s.ntaps := h.not_applies (e' := .coefFull) (by decide)
      exact raises_ldc_arg (Mode.ne_run_iff.mp (hmode (by decide))) hspace ha
    case push =>
      have hopen : s.blkRemain ≠ 0 := h.not_applies (e' := .noBlock) (by decide)
      exact raises_push_arg (Mode.ne_config_iff.mp (hmode (by decide))) hopen ha
    case read => exact raises_read_arg ha
    case rdc => exact raises_rdc_arg ha
    all_goals exact ha.elim
  | laneCount =>
    cases i
    case setl => exact raises_setl_laneCount (Mode.ne_run_iff.mp (hmode (by decide))) ha
    all_goals exact ha.elim
  | emptyInput =>
    cases i
    case block =>
      obtain rfl := ha
      have hclosed : s.blkRemain = 0 := not_not.mp (h.not_applies (e' := .busy) (by decide))
      exact raises_block_emptyInput (Mode.ne_config_iff.mp (hmode (by decide))) hclosed
    all_goals exact ha.elim

theorem Raises.err_eq (h : Raises i s e) (h' : Raises i s e') : e = e' :=
  Err.code_injective (congrArg State.lastErr (Host.Outcome.next.inj (h.symm.trans h')))

theorem Raises.applies (h : Raises i s e) : Applies e i s := by
  obtain ⟨e', ha, heq⟩ | ⟨u, d, -, -, heq⟩ := exec_completes h
  · obtain rfl : e = e' := Err.code_injective (congrArg State.lastErr heq)
    exact ha
  · have hcode : e.code = 0 := congrArg Response.err (Option.some.inj (congrArg State.rsp heq))
    exact absurd hcode e.code_ne_zero

theorem exists_leastError (h : Applies e i s) : ∃ e', LeastError e' i s := by
  obtain ⟨e', ha, hmin⟩ := (measure fun e : Err => e.code.toNat).wf.has_min {e | Applies e i s} ⟨e, h⟩
  exact ⟨e', ha, fun e'' h'' => BitVec.le_def.mpr (Nat.not_lt.mp (hmin e'' h''))⟩

/-- R1002 as an equivalence: what a command raises is a matter of what applies to it. -/
theorem raises_iff_leastError : Raises i s e ↔ LeastError e i s := by
  refine ⟨fun h => ?_, raises_of_leastError⟩
  obtain ⟨e', hleast⟩ := exists_leastError h.applies
  exact h.err_eq (raises_of_leastError hleast) ▸ hleast

theorem exists_succeeds_of_not_applies (h : ∀ e, ¬ Applies e i s) : ∃ d t, Succeeds i s d t := by
  obtain ⟨t, ht⟩ := exists_exec_eq_next i s
  obtain ⟨e, ha, -⟩ | ⟨u, d, -, -, rfl⟩ := exec_completes ht
  · exact absurd ha (h e)
  · exact ⟨d, u, ht⟩

/-! ### One state check and one argument check (R1002) -/

/-- The error of a command's state check, for the commands that have one. -/
def stateCheck : Instr → Option Err
  | .stop | .init | .block _ => some .busy
  | .push _ => some .noBlock
  | .ldc _ => some .coefFull
  | .start => some .coefIncomplete
  | .nop | .setn _ | .setl _ | .read _ | .rdc _ | .clrerr => none

/-- The error of a command's argument check, for the commands that have one. -/
def argumentCheck : Instr → Option Err
  | .setn _ | .ldc _ | .push _ | .read _ | .rdc _ => some .arg
  | .setl _ => some .laneCount
  | .block _ => some .emptyInput
  | .nop | .start | .stop | .init | .clrerr => none

theorem stateCheck_eq_of_applies (he : e ∈ [.busy, .noBlock, .coefFull, .coefIncomplete]) (ha : Applies e i s) :
    stateCheck i = some e := by
  simp only [List.mem_cons, List.not_mem_nil, or_false] at he
  obtain rfl | rfl | rfl | rfl := he <;> cases i
  case inl.stop | inl.init | inl.block | inr.inl.push | inr.inr.inl.ldc | inr.inr.inr.start => rfl
  all_goals exact ha.elim

theorem argumentCheck_eq_of_applies (he : e ∈ [.arg, .laneCount, .emptyInput]) (ha : Applies e i s) :
    argumentCheck i = some e := by
  simp only [List.mem_cons, List.not_mem_nil, or_false] at he
  obtain rfl | rfl | rfl := he <;> cases i
  case inl.setn | inl.ldc | inl.push | inl.read | inl.rdc | inr.inl.setl | inr.inr.block => rfl
  all_goals exact ha.elim

/-! ### The statements about errors -/

/-- Settles O16: a word that is no command is ILLEGAL, the smallest error of a command is raised, and the errors of one kind are
those of the command's one check of that kind. -/
theorem smallestErrorCodeIsReported : Obligations.SmallestErrorCodeIsReported := by
  refine ⟨fun _ s _ hx => execWord_of_error s hx, fun _ _ _ ha hmin => raises_of_leastError ⟨ha, hmin⟩,
    fun _ _ hnone => exists_succeeds_of_not_applies hnone, ?unique⟩
  case unique =>
    rintro i s e e' ha ha' (⟨he, he'⟩ | ⟨he, he'⟩)
    · exact Option.some.inj ((stateCheck_eq_of_applies he ha).symm.trans (stateCheck_eq_of_applies he' ha'))
    · exact Option.some.inj ((argumentCheck_eq_of_applies he ha).symm.trans (argumentCheck_eq_of_applies he' ha'))

theorem raises_mode_iff_applies : Raises i s .mode ↔ Applies .mode i s := ⟨Raises.applies, raises_mode_of_applies⟩

/-- Settles O17: MODE is raised where it applies, since the mode check is the first, and it applies as R1003's table says. -/
theorem modeTable : Obligations.ModeTable := by
  intro i s
  cases i with
  | nop | read | rdc | clrerr => exact raises_mode_iff_applies
  | setn | ldc | setl | start => exact raises_mode_iff_applies
  | stop | init | block | push => exact raises_mode_iff_applies

/-- When an error applies is a question about the elements of 10_state.md R102 other than `last_err`. -/
theorem applies_update_iff (e : Err) (i : Instr) (s : State) (c : Code) (r : Option Response) (edges : List Edge) :
    Applies e i { s with lastErr := c, rsp := r, host := edges } ↔ Applies e i s := Iff.rfl

/-- Settles O19: the same errors apply, so the smallest is the same. -/
theorem retryRaisesTheSameError : Obligations.RetryRaisesTheSameError := by
  intro i s e c r edges h
  obtain ⟨ha, hmin⟩ := raises_iff_leastError.mp h
  refine raises_of_leastError ⟨(applies_update_iff e i s c r edges).mpr ha, fun e' ha' => hmin e' ?_⟩
  exact (applies_update_iff e' i s c r edges).mp ha'

theorem raised_frame {r : Response} (hr : (s.raised e).rsp = some r) :
    r.data = 0 ∧ s.raised e = { s with lastErr := r.err, rsp := some r } := by
  obtain rfl := Option.some.inj hr
  exact ⟨rfl, rfl⟩

/-- Settles O15: of the ways a word can complete, the error response is the only one whose code is not 0. -/
theorem errorChangesOnlyLastErr : Obligations.ErrorChangesOnlyLastErr := by
  intro w s t r hw hr herr
  cases hd : decode w with
  | error x =>
    obtain rfl := Host.Outcome.next.inj ((execWord_of_error s hd).symm.trans hw)
    exact raised_frame (e := .illegal) hr
  | ok i =>
    obtain ⟨e, -, rfl⟩ | ⟨u, d, -, -, rfl⟩ := exec_completes ((execWord_of_ok s hd).symm.trans hw)
    · exact raised_frame hr
    · obtain rfl := Option.some.inj hr
      exact absurd rfl herr

/-! ### The block never stops (93_implementation_defined.md §2; R1014) -/

theorem exists_execWord_eq_next (w : Word) (s : State) :
    ∃ t, execWord w s = .next t ∧ t.params = s.params ∧ t.host = s.host := by
  cases hd : decode w with
  | error x => exact ⟨_, execWord_of_error s hd, rfl, rfl⟩
  | ok i =>
    obtain ⟨t, ht⟩ := exists_exec_eq_next i s
    exact ⟨t, (execWord_of_ok s hd).trans ht, exec_keeps_params_host ht⟩

/-- R1014: one case per thing an edge can do; reset too keeps the elaboration's parameters and the host's edges. -/
theorem exists_atEdge_eq_next (e : Edge) (s : State) :
    ∃ t, atEdge e s = .next t ∧ t.params = s.params ∧ t.host = s.host := by
  obtain ⟨-, hreset⟩ | ⟨-, -, -, hdeliver⟩ | ⟨-, -, -, hhold⟩ | ⟨-, -, -, hcommand⟩ | ⟨-, -, -, hidle⟩ :=
    atEdge_cases e s
  · exact ⟨_, hreset, rfl, rfl⟩
  · exact ⟨_, hdeliver, rfl, rfl⟩
  · exact ⟨_, hhold, rfl, rfl⟩
  · exact hcommand ▸ exists_execWord_eq_next e.cmdWord s
  · exact ⟨_, hidle, rfl, rfl⟩

/-- Settles O13: with no edge to come the state is held, and every edge leads on; at an idle edge nothing transfers. -/
theorem stepAlwaysContinues : Obligations.StepAlwaysContinues := by
  refine ⟨fun s hl => ?continues, fun s e rest hl hh hrst hv hr => (step_of_edge hl hh).trans (atEdge_idle hrst hr hv)⟩
  case continues =>
    cases hh : s.host with
    | nil => exact ⟨s, step_of_no_edge hl hh, rfl, hh, fun _ => rfl⟩
    | cons e rest =>
      obtain ⟨t, ht, hparams, hhost⟩ := exists_atEdge_eq_next e { s with host := rest }
      exact ⟨t, (step_of_edge hl hh).trans ht, hparams, hhost, nofun⟩

end Sys2Proof.Machine
end

section
/-! Reset and hazards (70_reset_and_hazards.md R1100 to R1104): what reset, START, STOP and INIT clear and keep, and that no
command cancels an open call. -/

namespace Sys2Proof.Machine

open Sys2Proof

variable {i : Instr} {s t u : State} {d : Nat}

/-! ### Clearing the filter state (R1102) -/

/-- Every element `clear_fs` writes holds what it writes there in a block of parameters p (43_cmd_config.md R610). -/
def FilterCleared (p : Params) (t : State) : Prop :=
  t.xh0 = List.replicate p.k0 0 ∧ t.xh1 = List.replicate p.k1 0 ∧ t.xhs = List.replicate p.k0 0 ∧
  t.align = 0 ∧ t.a0hold = 0 ∧ t.phase = .lane0 ∧ t.blkRemain = 0 ∧ t.scount = 0

theorem filterCleared_clearFs (s : State) : FilterCleared s.params s.clearFs := ⟨rfl, rfl, rfl, rfl, rfl, rfl, rfl, rfl⟩

theorem filterCleared_resetEdge (s : State) : FilterCleared s.params s.resetEdge :=
  ⟨rfl, rfl, rfl, rfl, rfl, rfl, rfl, rfl⟩

theorem Effect.clears_filter (h : Effect s i u) (hi : i ∈ [Instr.start, .stop, .init]) : FilterCleared s.params u := by
  cases h
  case start => exact filterCleared_clearFs s.deriveLaneSet
  case stop => exact filterCleared_clearFs s
  case init => exact filterCleared_clearFs s
  all_goals simp at hi

/-- R603: START derives the LaneSet and enters RUN. -/
theorem Effect.start_derives (h : Effect s .start u) : u.mode = .run ∧ u.h0 = lane0Taps s.params s.ntaps s.coef ∧
    u.h1 = lane1Taps s.params s.ntaps s.coef ∧ u.hs = sumTaps s.params u.h0 u.h1 := by
  cases h
  exact ⟨rfl, rfl, rfl, rfl⟩

theorem Effect.stop_mode (h : Effect s .stop u) : u.mode = .config := by
  cases h
  rfl

theorem Effect.init_mode (h : Effect s .init u) : u.mode = .run ∧ s.mode = .run := by
  cases h with
  | init hm _ => exact ⟨hm, hm⟩

/-- What a command that succeeds leaves is its effect, whatever response stands beside it. -/
theorem Succeeds.eq_effect (h : Succeeds i s d t) : ∃ u r, Effect s i u ∧ t = { u with rsp := r } := by
  obtain ⟨u, he, heq⟩ := h.effect
  exact ⟨u, t.rsp, he, congrArg (fun a : State => { a with rsp := t.rsp }) heq⟩

/-- Settles O27: the cleared elements are those of `clear_fs` in all four columns of R1102's table, and each other cell is a
frame rule of the commands' effects or what START derives. -/
theorem clearingTable : Obligations.ClearingTable := by
  refine ⟨?cleared, ?reset, ?kept, ?start, ?stop, ?init⟩
  case cleared =>
    rintro s t (rfl | ⟨i, d, u, hi, h, rfl⟩)
    · exact filterCleared_resetEdge s
    · obtain ⟨u, r, he, rfl⟩ := h.eq_effect
      exact he.clears_filter hi
  case reset =>
    exact fun s => ⟨rfl, rfl, rfl, rfl, fun k =>
      ⟨elem_replicate_zero _ k, elem_replicate_zero _ k, elem_replicate_zero _ k, elem_replicate_zero _ k⟩⟩
  case kept =>
    intro i d s t hi h
    obtain ⟨u, r, he, rfl⟩ := h.eq_effect
    have hsetn : ∀ n, i ≠ .setn n := by rintro n rfl; simp at hi
    have hldc : ∀ c, i ≠ .ldc c := by rintro c rfl; simp at hi
    have hclrerr : i ≠ .clrerr := by rintro rfl; simp at hi
    obtain ⟨hntaps, hcptr, hcoef⟩ := he.coefficients_eq hsetn hldc
    exact ⟨hntaps, hcptr, hcoef, he.lastErr_eq hclrerr⟩
  case start =>
    intro d s t h
    obtain ⟨u, r, he, rfl⟩ := h.eq_effect
    exact he.start_derives
  case stop =>
    intro d s t h
    obtain ⟨u, r, he, rfl⟩ := h.eq_effect
    exact ⟨he.stop_mode, he.laneSet_eq (by decide)⟩
  case init =>
    intro d s t h
    obtain ⟨u, r, he, rfl⟩ := h.eq_effect
    obtain ⟨hrun, hwas⟩ := he.init_mode
    exact ⟨hrun, hwas, he.laneSet_eq (by decide)⟩

/-! ### An open call (R1104) -/

/-- While a call is open, a command that takes effect is a PUSH of one sample, or leaves the mode and the count of the call. -/
theorem Effect.open_call (h : Effect s i u) (hm : s.mode = .run) (hopen : s.blkRemain ≠ 0) :
    u.mode = .run ∧ (u.blkRemain = s.blkRemain ∨
      ∃ x, i = .push x ∧ InRangeS x s.params.wx ∧ u.blkRemain.toNat + 1 = s.blkRemain.toNat) := by
  cases h with
  | nop | read | rdc | clrerr => exact ⟨hm, .inl rfl⟩
  | setn hconfig | ldc hconfig | setl hconfig | start hconfig => exact absurd (hconfig.symm.trans hm) (by decide)
  | stop _ hclosed | init _ hclosed | block _ hclosed => exact absurd hclosed hopen
  | @push x _ _ hrange =>
    refine ⟨by simpa using hm, .inr ⟨x, rfl, hrange, ?_⟩⟩
    rw [State.advance_blkRemain, State.laneStep_blkRemain, count_pred_toNat hopen]

/-- Settles O28: BUSY is the first check to fail for STOP, INIT and BLOCK, an error leaves the call as it is, and of the effects
the only one that can count it down is PUSH's. -/
theorem openCallCannotBeCancelled : Obligations.OpenCallCannotBeCancelled := by
  intro i s hm hopen
  refine ⟨?busy, fun t h => ?count⟩
  case busy =>
    rintro (rfl | rfl | ⟨m, rfl⟩)
    all_goals exact raises_busy_of_applies hm hopen
  case count =>
    obtain ⟨u, c, r, rfl | he, rfl⟩ := exec_changes h
    · exact ⟨hm, .inl rfl⟩
    · exact he.open_call hm hopen

/-! ### Reset (R1100) -/

/-- R1100: the block is ready for a command once `rst` is 0 again. -/
theorem cmdReady_resetEdge (s : State) : s.resetEdge.cmdReady false = true := rfl

/-- R1100: no flag stands after reset. -/
theorem statusView_resetEdge (s : State) : statusView s.resetEdge = 0 := by
  simp [statusView, blkActive, cfgDone, Mode.bit, Lane.bit]

theorem succeeds_read_status_resetEdge (s : State) : Succeeds (.read 0) s.resetEdge 0 s.resetEdge := by
  have hview : view s.resetEdge 0 = some (unsignedData s.resetEdge 0) :=
    congrArg (fun v => some (unsignedData s.resetEdge v)) (statusView_resetEdge s)
  exact succeeds_read_unsigned hview (by decide)

/-- 10_state.md R116: the ID view is the same word in every state. -/
theorem succeeds_read_id (s : State) : Succeeds (.read 12) s idWord s := succeeds_read_unsigned rfl (by decide)

/-- Settles O8: the step at such an edge is `resetEdge` whatever the other pins are, each element is there as `atReset` says,
and `rst` masks both outputs. -/
theorem resetClearsEverything : Obligations.ResetClearsEverything := by
  refine ⟨fun s e rest hl hh hrst => ?elements, fun _ => ⟨rfl, rfl⟩⟩
  case elements =>
    have hstep : step s = .next { s with host := rest }.resetEdge :=
      (step_of_edge hl hh).trans (atEdge_reset _ hrst)
    obtain ⟨hxh0, hxh1, hxhs, halign, ha0hold, hphase, hblk, hscount⟩ := filterCleared_resetEdge { s with host := rest }
    exact ⟨_, hstep, rfl, rfl, rfl, hphase, hblk, hscount, rfl, rfl, rfl, rfl, rfl, hxh0, hxh1, hxhs, halign, ha0hold,
      rfl, cmdReady_resetEdge _, succeeds_read_status_resetEdge _, succeeds_read_id _⟩

end Sys2Proof.Machine
end
